-- ==== Sys2Proof/Word.lean ====
section
/-! DEFINITION. The word and the byte of the engine, the names its operands use (slot, register) and the names
of its error statuses. Nothing here computes: what a test could show wrong stands under Machine/ and in
Decode.lean. -/

namespace Sys2Proof

/-- The 32-bit unsigned quantity of R4 (XLEN): `value`, `mask`, `rot`, a key word. -/
abbrev Word := BitVec 32

/-- The unit of every byte sequence of the engine (R31). -/
abbrev Byte := BitVec 8

/-- The generator slots `G[0]` and `G[1]` (R5 NGEN = 2, R56). -/
inductive Slot where
  | g0
  | g1
  deriving DecidableEq, Repr

/-- The three registers of a generator (R11). A is the step-control register, B and C are stop/go registers. -/
inductive RegName where
  | a
  | b
  | c
  deriving DecidableEq, Repr

/-- The error statuses of R130, code 0x00 (OK) apart. -/
inductive Error where
  /-- E_ILLEGAL_CMD, R131. -/
  | illegalCmd
  /-- E_FRAME, R132. -/
  | frame
  /-- E_LENGTH, R133. -/
  | length
  /-- E_OPERAND, R134. -/
  | operand
  /-- E_UNINIT, R135. -/
  | uninit
  /-- E_MALFORMED_CONTAINER, R136. -/
  | malformedContainer
  /-- E_NOT_CONTAINER, R137. -/
  | notContainer
  deriving DecidableEq, Repr

end Sys2Proof
end

