-- ==== Sys2Proof/Config.lean ====
section
/-! DEFINITION. What the spec leaves open: the parameters of a step (R5, R6, R24) and the free values, which are
constants with no body so that nothing can be proved of them. -/

namespace Sys2Proof

/-- How step 3 of NextBit samples the register it clocked (R5, R92). POST is the decided reading (D9);
PRE is kept so that it can be evaluated. -/
inductive SampleMode where
  | post
  | pre
  deriving DecidableEq, Repr

/-- The parameters of a step (R24). `maxLen` is the open parameter MAXLEN of R6, `none` meaning unbounded;
`sampleMode` is SAMPLE_MODE of R5. No command reads or writes them otherwise. -/
structure Params where
  maxLen : Option Nat
  sampleMode : SampleMode
  deriving DecidableEq, Repr

/-- FREE VALUE (notes/assumptions/1.md): what a register holds while it is not loaded, "unspecified" by R12 and
R21. The first argument counts the times the registers were unloaded, so that nothing relates the values of two
such times. -/
opaque Config.unloadedValue : Nat → Slot → RegName → Word

/-- FREE VALUE (notes/assumptions/3.md): the byte the random source answers to the draw of that number, when
State lists no supplied byte (R144: "a draw under no law"). DESIGN CHOICE, unsafe: it is one function for every run
and every engine, so with nothing supplied two runs get the same byte at the same draw number, which R144 does not
say; where the draws of two runs are to be unrelated, each is given its own bytes in `State.rnd`. -/
opaque Config.rndByte : Nat → Byte

end Sys2Proof
end

