-- ==== Sys2Proof/Machine/Constants.lean ====
section
/-! DEFINITION. The constants of the engine: R4 and R5 (sizes, bounds, the key-encryption-key), R13 to R16
(masks, refill constants, default seeds, magic signature). None of them is state and no command writes or
reads one (R19). -/

namespace Sys2Proof.Machine

/-- KEYLEN, bytes in a key (R4). -/
def keyLen : Nat := 12

/-- MAGICLEN, bytes in the magic signature (R4). -/
def magicLen : Nat := 28

/-- PADLEN, random padding bytes of a header (R4). -/
def padLen : Nat := 48

/-- RSVLEN, reserved zero bytes of a header (R4). -/
def rsvLen : Nat := 4

/-- HDRLEN, bytes in a container header (R4). -/
def hdrLen : Nat := 104

/-- BYTEBITS, keystream bits consumed per byte (R4). -/
def byteBits : Nat := 8

/-- NMAX, the largest count KSG.NEXTBITS accepts (R5). -/
def nMax : Nat := 32

/-- `MASK_X`, the feedback polynomial (R13). -/
def maskOf : RegName → Word
  | .a => 0x80000062
  | .b => 0x40000020
  | .c => 0x10000002

/-- `ROT_X`, the refill/window constant (R13). -/
def rotOf : RegName → Word
  | .a => 0x7FFFFFFF
  | .b => 0x3FFFFFFF
  | .c => 0x0FFFFFFF

/-- `NROT_X = not32(ROT_X)`, or-ed in on the feedback branch (R15). -/
def nrotOf (x : RegName) : Word :=
  ~~~(rotOf x)

/-- `SEED_X`, the default seed (R14). -/
def seedOf : RegName → Word
  | .a => 0x13579BDF
  | .b => 0x2468ACE0
  | .c => 0xFDB97531

/-- MAGIC, the 28-byte signature, in the hexadecimal rendering of R16. -/
def magic : List Byte :=
  [0x45, 0x6E, 0x63, 0x72, 0x79, 0x70, 0x74, 0x65, 0x64, 0x20, 0x70, 0x72, 0x6F, 0x67, 0x72, 0x61,
   0x6D, 0x20, 0x66, 0x69, 0x6C, 0x65, 0x2E, 0x0D, 0x0A, 0x32, 0x00, 0x00]

/-- KEK, the key-encryption-key Encrypt writes and uses: 12 zero bytes (R4, R120). -/
def kek : List Byte :=
  List.replicate keyLen 0x00

/-- The decided value of SAMPLE_MODE (R5, D9). -/
def decidedSampleMode : SampleMode :=
  .post

/-- The value of the open parameter MAXLEN that a run from reset uses: unbounded, the second choice of R6
(DESIGN CHOICE, notes/assumptions/6.md). -/
def defaultMaxLen : Option Nat :=
  none

end Sys2Proof.Machine
end

