-- ==== Sys2Proof/Machine/Operands.lean ====
section
/-! DEFINITION. The operand and data formats: little-endian words (R32, R57, R60), half-open byte ranges (R31),
the register and slot selectors (R55, R56) and the three words of a key (R59). -/

namespace Sys2Proof.Machine

/-- `le32` of four bytes, the first least significant (R32, notation of 00_scope.md). -/
def le32 (b0 b1 b2 b3 : Byte) : Word :=
  b0.setWidth 32 ||| (b1.setWidth 32 <<< 8) ||| (b2.setWidth 32 <<< 16) ||| (b3.setWidth 32 <<< 24)

/-- `bytes_le32`, the inverse of `le32`: four bytes, the least significant first. -/
def bytesLe32 (v : Word) : List Byte :=
  [v.extractLsb' 0 8, v.extractLsb' 8 8, v.extractLsb' 16 8, v.extractLsb' 24 8]

/-- `l[lo:hi)`, the bytes at offsets `lo` up to but not including `hi` (R31). -/
def slice (l : List Byte) (lo hi : Nat) : List Byte :=
  (l.drop lo).take (hi - lo)

/-- The four bytes of a byte sequence from an offset, as a little-endian word. The spec only uses it inside a
key of 12 bytes; an offset past the end reads as zero bytes, which no well-formed key reaches. -/
def wordAt (l : List Byte) (at0 : Nat) : Word :=
  le32 (l.getD at0 0) (l.getD (at0 + 1) 0) (l.getD (at0 + 2) 0) (l.getD (at0 + 3) 0)

/-- The word of a key that belongs to a register: the first to A, the second to B, the third to C (R59). -/
def keyWord (key : List Byte) : RegName → Word
  | .a => wordAt key 0
  | .b => wordAt key 4
  | .c => wordAt key 8

/-- The register field `sel[1:0]` (R55): 3 is reserved. -/
def regOfField (f : BitVec 2) : Option RegName :=
  if f = 0 then some .a
  else if f = 1 then some .b
  else if f = 2 then some .c
  else none

/-- The slot that one bit names. -/
def slotOfBit (b : Bool) : Slot :=
  if b then .g1 else .g0

/-- The register selector `sel` (R55): bits 7..3 zero, bit 2 the slot, bits 1..0 the register. -/
def regOfSel (sel : Byte) : Option (Slot × RegName) :=
  if sel.extractLsb' 3 5 = 0 then
    (regOfField (sel.extractLsb' 0 2)).map fun x => (slotOfBit (sel.getLsbD 2), x)
  else
    none

/-- The slot selector `g` (R56): 0x00 or 0x01. -/
def slotOfByte (g : Byte) : Option Slot :=
  if g = 0x00 then some .g0
  else if g = 0x01 then some .g1
  else none

/-- The byte of R56 that selects a slot. -/
def slotByte : Slot → Byte
  | .g0 => 0x00
  | .g1 => 0x01

/-- The byte of R55 that selects a register: the slot in bit 2, the register below. -/
def selByte (g : Slot) (x : RegName) : Byte :=
  (slotByte g <<< 2) ||| (match x with
    | .a => 0x00
    | .b => 0x01
    | .c => 0x02)

/-- A single bit as the byte a response carries: 0x00 or 0x01 (R60). -/
def bitByte (b : Bool) : Byte :=
  if b then 0x01 else 0x00

end Sys2Proof.Machine
end

