-- ==== Sys2Proof/Syntax.lean ====
section
/-! DEFINITION. The commands of the engine, one constructor per row of spec/opcode_table.json, with operands as
the operand formats of R52 to R54 give them once a frame has been taken apart. -/

namespace Sys2Proof

/-- The eleven commands of R61. -/
inductive Instr where
  /-- `LFSR.LOAD Gg.X, seed` (R83). -/
  | lfsrLoad (g : Slot) (x : RegName) (seed : Word)
  /-- `LFSR.PEEK Gg.X` (R84). -/
  | lfsrPeek (g : Slot) (x : RegName)
  /-- `LFSR.ADVANCE Gg.X` (R85). -/
  | lfsrAdvance (g : Slot) (x : RegName)
  /-- `KSG.INIT Gg, key` (R91); a well-formed key has 12 bytes. -/
  | ksgInit (g : Slot) (key : List Byte)
  /-- `KSG.NEXTBIT Gg` (R93). -/
  | ksgNextBit (g : Slot)
  /-- `KSG.NEXTBITS Gg, n` (R96); a well-formed `n` is at most 32. -/
  | ksgNextBits (g : Slot) (n : Byte)
  /-- `KSG.CRYPTBYTE Gg, v` (R99). -/
  | ksgCryptByte (g : Slot) (v : Byte)
  /-- `KSG.CRYPT Gg, buf` (R100). -/
  | ksgCrypt (g : Slot) (buf : List Byte)
  /-- `CODEC.RUN input` (R111). -/
  | codecRun (input : List Byte)
  /-- `CODEC.DECRYPT input` (R112). -/
  | codecDecrypt (input : List Byte)
  /-- `CODEC.ENCRYPT input` (R113). -/
  | codecEncrypt (input : List Byte)
  deriving DecidableEq, Repr

end Sys2Proof
end

