-- ==== Sys2Proof/WellFormed.lean ====
section
/-! DEFINITION. Which commands a frame can stand for: a key has 12 bytes (R53, R59) and a count is at most NMAX
(R60). Every other operand is legal at every value of its type (R134). -/

namespace Sys2Proof

/-- The commands some frame decodes to. -/
def Instr.wellFormed : Instr → Bool
  | .lfsrLoad _ _ _ => true
  | .lfsrPeek _ _ => true
  | .lfsrAdvance _ _ => true
  | .ksgInit _ key => key.length == Machine.keyLen
  | .ksgNextBit _ => true
  | .ksgNextBits _ n => decide (n.toNat ≤ Machine.nMax)
  | .ksgCryptByte _ _ => true
  | .ksgCrypt _ _ => true
  | .codecRun _ => true
  | .codecDecrypt _ => true
  | .codecEncrypt _ => true

end Sys2Proof
end

