-- ==== Sys2Proof/Decode.lean ====
section
/-! DEFINITION. From the bytes of a frame to a command or the error status that refuses the frame, and back.
The checks stand in the order of R138: opcode (R131), length (R132), selector and count (R134); the later
statuses depend on data or state and are raised by the meanings. -/

namespace Sys2Proof

open Machine

/-- The assigned values of `F[0]` (R61). -/
inductive Opcode where
  | lfsrLoad
  | lfsrPeek
  | lfsrAdvance
  | ksgInit
  | ksgNextBit
  | ksgNextBits
  | ksgCryptByte
  | ksgCrypt
  | codecRun
  | codecDecrypt
  | codecEncrypt
  deriving DecidableEq, Repr

/-- The opcode map of R61. -/
def opcodeByte : Opcode → Byte
  | .lfsrLoad => 0x01
  | .lfsrPeek => 0x02
  | .lfsrAdvance => 0x03
  | .ksgInit => 0x10
  | .ksgNextBit => 0x11
  | .ksgNextBits => 0x12
  | .ksgCryptByte => 0x13
  | .ksgCrypt => 0x14
  | .codecRun => 0x20
  | .codecDecrypt => 0x21
  | .codecEncrypt => 0x22

/-- Every opcode, in the order of R61. -/
def allOpcodes : List Opcode :=
  [.lfsrLoad, .lfsrPeek, .lfsrAdvance, .ksgInit, .ksgNextBit, .ksgNextBits, .ksgCryptByte, .ksgCrypt,
   .codecRun, .codecDecrypt, .codecEncrypt]

/-- The opcode a byte is assigned to, matched whole (mask 0xFF, R61); every other byte is illegal (R62). -/
def opcodeOf (b : Byte) : Option Opcode :=
  allOpcodes.find? fun o => opcodeByte o == b

/-- A command on a register whose selector is legal, or E_OPERAND (R55, R134). -/
def withSel (sel : Byte) (k : Slot → RegName → Instr) : Except Error Instr :=
  match regOfSel sel with
  | some (g, x) => .ok (k g x)
  | none => .error .operand

/-- A command on a slot whose selector is legal, or E_OPERAND (R56, R134). -/
def withSlot (g : Byte) (k : Slot → Instr) : Except Error Instr :=
  match slotOfByte g with
  | some g => .ok (k g)
  | none => .error .operand

/-- The operands `IN` of an opcode, in the formats L, K and C of R52, R53 and R54. A length that the format
does not have is E_FRAME (R132); a reserved selector or a count above NMAX is E_OPERAND (R134). -/
def decodeOperands : Opcode → List Byte → Except Error Instr
  | .lfsrLoad, [sel, s0, s1, s2, s3] => withSel sel fun g x => .lfsrLoad g x (le32 s0 s1 s2 s3)
  | .lfsrLoad, _ => .error .frame
  | .lfsrPeek, [sel] => withSel sel .lfsrPeek
  | .lfsrPeek, _ => .error .frame
  | .lfsrAdvance, [sel] => withSel sel .lfsrAdvance
  | .lfsrAdvance, _ => .error .frame
  | .ksgInit, g :: key => if key.length = keyLen then withSlot g fun g => .ksgInit g key else .error .frame
  | .ksgInit, [] => .error .frame
  | .ksgNextBit, [g] => withSlot g .ksgNextBit
  | .ksgNextBit, _ => .error .frame
  | .ksgNextBits, [g, n] =>
    if n.toNat ≤ nMax then withSlot g fun g => .ksgNextBits g n else .error .operand
  | .ksgNextBits, _ => .error .frame
  | .ksgCryptByte, [g, v] => withSlot g fun g => .ksgCryptByte g v
  | .ksgCryptByte, _ => .error .frame
  | .ksgCrypt, g :: buf => withSlot g fun g => .ksgCrypt g buf
  | .ksgCrypt, [] => .error .frame
  | .codecRun, input => .ok (.codecRun input)
  | .codecDecrypt, input => .ok (.codecDecrypt input)
  | .codecEncrypt, input => .ok (.codecEncrypt input)

/-- The command a frame stands for, or the first error status of R138 that its bytes alone give (R50, R131). -/
def decode : List Byte → Except Error Instr
  | [] => .error .illegalCmd
  | op :: operands =>
    match opcodeOf op with
    | none => .error .illegalCmd
    | some o => decodeOperands o operands

/-- The opcode of a command (R61). -/
def opcodeOfInstr : Instr → Opcode
  | .lfsrLoad _ _ _ => .lfsrLoad
  | .lfsrPeek _ _ => .lfsrPeek
  | .lfsrAdvance _ _ => .lfsrAdvance
  | .ksgInit _ _ => .ksgInit
  | .ksgNextBit _ => .ksgNextBit
  | .ksgNextBits _ _ => .ksgNextBits
  | .ksgCryptByte _ _ => .ksgCryptByte
  | .ksgCrypt _ _ => .ksgCrypt
  | .codecRun _ => .codecRun
  | .codecDecrypt _ => .codecDecrypt
  | .codecEncrypt _ => .codecEncrypt

/-- The operand bytes of a command (R52, R53, R54). -/
def encodeOperands : Instr → List Byte
  | .lfsrLoad g x seed => selByte g x :: bytesLe32 seed
  | .lfsrPeek g x => [selByte g x]
  | .lfsrAdvance g x => [selByte g x]
  | .ksgInit g key => slotByte g :: key
  | .ksgNextBit g => [slotByte g]
  | .ksgNextBits g n => [slotByte g, n]
  | .ksgCryptByte g v => [slotByte g, v]
  | .ksgCrypt g buf => slotByte g :: buf
  | .codecRun input => input
  | .codecDecrypt input => input
  | .codecEncrypt input => input

/-- The frame of a command (R50, R64). -/
def encode (i : Instr) : List Byte :=
  opcodeByte (opcodeOfInstr i) :: encodeOperands i

/-- The pseudo-command `KSG.KEYSTREAM Gg, m`: `KSG.CRYPT` of `m` zero bytes (R66). -/
def ksgKeystream (g : Slot) (m : Nat) : Instr :=
  .ksgCrypt g (List.replicate m 0x00)

/-- The pseudo-command `KSG.NEXTBYTE Gg`: `KSG.NEXTBITS Gg, 8` (R66). -/
def ksgNextByte (g : Slot) : Instr :=
  .ksgNextBits g 8

/-- The length of the shortest frame with a given opcode: opcode byte, selector and fixed operands
(R52, R53, R54). -/
def minFrameLen : Opcode → Nat
  | .lfsrLoad => 6
  | .lfsrPeek => 2
  | .lfsrAdvance => 2
  | .ksgInit => 14
  | .ksgNextBit => 2
  | .ksgNextBits => 3
  | .ksgCryptByte => 3
  | .ksgCrypt => 2
  | .codecRun => 1
  | .codecDecrypt => 1
  | .codecEncrypt => 1

/-- `count` bytes of a number, the least significant first. -/
def bytesOfNat : Nat → Nat → List Byte
  | 0, _ => []
  | count + 1, w => BitVec.ofNat 8 w :: bytesOfNat count (w / 256)

/-- The bytes followed by as many zero bytes as its opcode's shortest frame needs. -/
def padFrame (F : List Byte) : List Byte :=
  match F.head?.bind opcodeOf with
  | none => F
  | some o => F ++ List.replicate (minFrameLen o - F.length) 0x00

/-- The frame of an opcode-table word: bit 0 of `w` is bit 0 of `F[0]`, bit 8 is bit 0 of `F[1]`, and operand
bytes the table gives no bits are zero. -/
def frameOfTableWord (nbits w : Nat) : List Byte :=
  padFrame (bytesOfNat ((nbits + 7) / 8) w)

/-- What the decoder reads from an opcode-table word. -/
def decodeTableWord (nbits w : Nat) : Option Instr :=
  match decode (frameOfTableWord nbits w) with
  | .ok i => some i
  | .error _ => none

end Sys2Proof
end

