-- ==== Sys2Proof/Machine/State.lean ====
section
/-! DEFINITION. The state of one engine (R10), the inputs and outputs of a step that R24, R176 and R177 name, and
the state after reset (R21). -/

namespace Sys2Proof.Machine

/-- One ClockedRegister: its 32-bit content (R11) and whether it has been loaded (R12). While `loaded` is false
the content is unspecified and no command reads it (R135). -/
structure ClockedRegister where
  value : Word
  loaded : Bool
  deriving DecidableEq, Repr

/-- One generator slot: the three registers it owns (R11, R23). -/
structure Generator where
  a : ClockedRegister
  b : ClockedRegister
  c : ClockedRegister
  deriving DecidableEq, Repr

/-- The `info` byte of a response (R58): which mode a CODEC command performed. -/
inductive Info where
  | none
  | encrypt
  | decrypt
  deriving DecidableEq, Repr

/-- A response (R51). An error carries nothing but its status: its `info` is 0x00 and its OUT is empty. -/
inductive Response where
  | ok (info : Info) (out : List Byte)
  | error (e : Error)
  deriving DecidableEq, Repr

/-- What the host can do to the engine between two commands (R177): deliver a whole frame (R50), or assert the
reset input (R160). -/
inductive HostInput where
  | frame (bytes : List Byte)
  | reset
  deriving DecidableEq, Repr

/-- The engine and its ports.

* `g0`, `g1`: the architectural state, R10. Nothing else is state of the engine.
* `params`: the parameters of a step, R24.
* `pending`: the host's inputs not yet taken, oldest first, R50, R176, R177.
* `rnd`: the bytes the random source has supplied and no command has drawn, R30, R38.
* `drawn`: how many bytes have been drawn; the MODEL's own index of `Config.rndByte`.
* `unloads`: how often the registers have been unloaded; the MODEL's own index of `Config.unloadedValue`.
* `responses`: what the host has been answered, oldest first, R51, R176. -/
structure State where
  g0 : Generator
  g1 : Generator
  params : Params
  pending : List HostInput
  rnd : List Byte
  drawn : Nat
  unloads : Nat
  responses : List Response
  deriving DecidableEq, Repr

/-- Why the machine could stop with a fault. There is no constructor: the spec gives every frame a response
and every response a next state (R51, R140, R142), so no step faults. Safe. -/
inductive Fault where
  deriving DecidableEq, Repr

/-- Why an instruction could have no meaning. -/
inductive Refusal where
  /-- Raised by `exec`'s arm of an instruction without a meaning. No arm raises it: every instruction of the
  opcode table has its meaning. Safe. -/
  | notModelled (mnemonic : String)
  deriving DecidableEq, Repr

/-- A register that is not loaded: its content is a free value (R12, R21; notes/assumptions/1.md). `n` says
at which unloading. -/
def unloadedRegister (n : Nat) (g : Slot) (x : RegName) : ClockedRegister :=
  { value := Config.unloadedValue n g x, loaded := false }

/-- A slot none of whose registers is loaded. -/
def unloadedGenerator (n : Nat) (g : Slot) : Generator :=
  { a := unloadedRegister n g .a, b := unloadedRegister n g .b, c := unloadedRegister n g .c }

/-- The machine right after reset (R21): all six loaded flags 0, all six values unspecified, no command in
progress, nothing answered. -/
def State.reset : State :=
  { g0 := unloadedGenerator 0 .g0
    g1 := unloadedGenerator 0 .g1
    params := { maxLen := defaultMaxLen, sampleMode := decidedSampleMode }
    pending := []
    rnd := []
    drawn := 0
    unloads := 0
    responses := [] }

end Sys2Proof.Machine
end

