-- ==== Sys2Proof/Machine/Ops.lean ====
section
/-! DEFINITION. The named operations of the engine: reading and writing registers, Peek and Advance (R80, R81),
InitGen (R90), NextBit (R92), NextBits (R95), CryptByte (R97), Crypt (R98), drawing random bytes (R38), the
responses (R51, R130, R58), refusing a command (R140), the MAXLEN guard (R133) and the reset input (R160).
Refusing is this engine's only exception entry; there is nothing to return from (R142). -/

namespace Sys2Proof.Machine

/-! ### Registers -/

/-- A register of a generator by its letter (R11). -/
def Generator.reg (k : Generator) : RegName → ClockedRegister
  | .a => k.a
  | .b => k.b
  | .c => k.c

/-- A generator with one register replaced. -/
def Generator.setReg (k : Generator) (x : RegName) (r : ClockedRegister) : Generator :=
  match x with
  | .a => { k with a := r }
  | .b => { k with b := r }
  | .c => { k with c := r }

/-- The generator in a slot. -/
def State.slot (s : State) : Slot → Generator
  | .g0 => s.g0
  | .g1 => s.g1

/-- The state with the generator of one slot replaced. -/
def State.setSlot (s : State) (g : Slot) (k : Generator) : State :=
  match g with
  | .g0 => { s with g0 := k }
  | .g1 => { s with g1 := k }

/-- `G[g].X`. -/
def State.reg (s : State) (g : Slot) (x : RegName) : ClockedRegister :=
  (s.slot g).reg x

/-- `G[g].X <- r`. -/
def State.setReg (s : State) (g : Slot) (x : RegName) (r : ClockedRegister) : State :=
  s.setSlot g ((s.slot g).setReg x r)

/-! ### The ClockedRegister -/

/-- Peek (R81): bit 0 of `value`, nothing written. -/
def peek (r : ClockedRegister) : Bool :=
  r.value.getLsbD 0

/-- One clock of a register with a given mask and refill constants (R80): on the feedback branch xor, shift, or;
on the other branch shift, and. The bit returned is `took`. -/
def clock (mask rot nrot : Word) (r : ClockedRegister) : Bool × ClockedRegister :=
  if r.value.getLsbD 0 then
    (true, { r with value := ((r.value ^^^ mask) >>> 1) ||| nrot })
  else
    (false, { r with value := (r.value >>> 1) &&& rot })

/-- Advance (R80): one clock of the register at position `x`, with that position's constants (R13, R15). -/
def advance (x : RegName) (r : ClockedRegister) : Bool × ClockedRegister :=
  clock (maskOf x) (rotOf x) (nrotOf x) r

/-! ### The KeystreamGenerator -/

/-- The value InitGen gives a register: its key word, or its default seed when the word is zero (R90). -/
def seedValue (key : List Byte) (x : RegName) : Word :=
  if keyWord key x = 0 then seedOf x else keyWord key x

/-- A register that InitGen has loaded (R90). -/
def initReg (key : List Byte) (x : RegName) : ClockedRegister :=
  { value := seedValue key x, loaded := true }

/-- InitGen (R90): the generator a 12-byte key gives. -/
def initGen (key : List Byte) : Generator :=
  { a := initReg key .a, b := initReg key .b, c := initReg key .c }

/-- The bit step 3 of NextBit takes from the register it clocked: POST is the low bit after the clock, PRE the
bit Advance returned (R92, D9). -/
def freshBit (m : SampleMode) (clocked : Bool × ClockedRegister) : Bool :=
  match m with
  | .post => peek clocked.2
  | .pre => clocked.1

/-- NextBit (R92): one keystream bit, and the generator after the round. -/
def nextBit (m : SampleMode) (k : Generator) : Bool × Generator :=
  let b := peek k.b
  let c := peek k.c
  let (took, a') := advance .a k.a
  if took then
    let clocked := advance .b k.b
    (freshBit m clocked ^^ c, { k with a := a', b := clocked.2 })
  else
    let clocked := advance .c k.c
    (b ^^ freshBit m clocked, { k with a := a', c := clocked.2 })

/-- The loop of NextBits (R95): `n` more rounds on the accumulator, first bit highest. -/
def nextBitsLoop (m : SampleMode) : Nat → Word → Generator → Word × Generator
  | 0, acc, k => (acc, k)
  | n + 1, acc, k =>
    let (bit, k') := nextBit m k
    nextBitsLoop m n ((acc <<< 1) ||| (BitVec.ofBool bit).setWidth 32) k'

/-- NextBits (R95): `n` keystream bits as a number, for `n` up to NMAX. -/
def nextBits (m : SampleMode) (n : Nat) (k : Generator) : Word × Generator :=
  nextBitsLoop m n 0 k

/-- CryptByte (R97): the byte xor eight fresh keystream bits. -/
def cryptByte (m : SampleMode) (v : Byte) (k : Generator) : Byte × Generator :=
  let (ks, k') := nextBits m byteBits k
  (v ^^^ ks.setWidth 8, k')

/-- Crypt (R98): CryptByte on every byte, in order. -/
def crypt (m : SampleMode) : List Byte → Generator → List Byte × Generator
  | [], k => ([], k)
  | v :: rest, k =>
    let (o, k') := cryptByte m v k
    let (os, k'') := crypt m rest k'
    (o :: os, k'')

/-! ### The same on a slot of the state -/

/-- `InitGen(g, key)` (R90). -/
def State.initSlot (s : State) (g : Slot) (key : List Byte) : State :=
  s.setSlot g (initGen key)

/-- `Advance(g, X)` (R80). -/
def State.advanceReg (s : State) (g : Slot) (x : RegName) : Bool × State :=
  let (took, r) := advance x (s.reg g x)
  (took, s.setReg g x r)

/-- `NextBit(g)` (R92). -/
def State.nextBit (s : State) (g : Slot) : Bool × State :=
  let (bit, k) := Sys2Proof.Machine.nextBit s.params.sampleMode (s.slot g)
  (bit, s.setSlot g k)

/-- `NextBits(g, n)` (R95). -/
def State.nextBits (s : State) (g : Slot) (n : Nat) : Word × State :=
  let (acc, k) := Sys2Proof.Machine.nextBits s.params.sampleMode n (s.slot g)
  (acc, s.setSlot g k)

/-- `CryptByte(g, v)` (R97). -/
def State.cryptByte (s : State) (g : Slot) (v : Byte) : Byte × State :=
  let (o, k) := Sys2Proof.Machine.cryptByte s.params.sampleMode v (s.slot g)
  (o, s.setSlot g k)

/-- `Crypt(g, buf)` (R98). -/
def State.crypt (s : State) (g : Slot) (buf : List Byte) : List Byte × State :=
  let (os, k) := Sys2Proof.Machine.crypt s.params.sampleMode buf (s.slot g)
  (os, s.setSlot g k)

/-! ### The random source -/

/-- One byte from the random source: the next supplied one, or a free value when none is supplied (R38, R144). The
source always answers (notes/assumptions/9.md). DESIGN CHOICE, unsafe (notes/assumptions/3.md): the free value depends
on the number of the draw alone, so two runs with nothing supplied draw the same bytes. -/
def State.drawByte (s : State) : Byte × State :=
  match s.rnd with
  | v :: rest => (v, { s with rnd := rest, drawn := s.drawn + 1 })
  | [] => (Config.rndByte s.drawn, { s with drawn := s.drawn + 1 })

/-- `draw(n)`: the next `n` bytes, consumed in order (R38). -/
def State.draw : Nat → State → List Byte × State
  | 0, s => ([], s)
  | n + 1, s =>
    let (v, s') := s.drawByte
    let (vs, s'') := State.draw n s'
    (v :: vs, s'')

/-! ### Responses -/

/-- The status codes of R130. -/
def errorCode : Error → Byte
  | .illegalCmd => 0x01
  | .frame => 0x02
  | .length => 0x03
  | .operand => 0x04
  | .uninit => 0x05
  | .malformedContainer => 0x06
  | .notContainer => 0x07

/-- The values of the `info` byte (R58). -/
def infoByte : Info → Byte
  | .none => 0x00
  | .encrypt => 0x01
  | .decrypt => 0x02

/-- The bytes of a response, `[status, info] ++ OUT` (R51). -/
def Response.bytes : Response → List Byte
  | .ok info out => 0x00 :: infoByte info :: out
  | .error e => [errorCode e, 0x00]

/-- Deliver a response to the host (R51). -/
def State.respond (s : State) (r : Response) : State :=
  { s with responses := s.responses ++ [r] }

/-- The response of a command that is not a CODEC command and ends with OK: `info` is 0x00 (R58). -/
def State.respondOk (s : State) (out : List Byte) : State :=
  s.respond (.ok .none out)

/-- `raise E_x` (R140): the command ends with the status alone; no register, no flag and no random byte is
touched. -/
def State.refuse (s : State) (e : Error) : State :=
  s.respond (.error e)

/-! ### The bound on a payload -/

/-- Whether a payload of that many bytes is over MAXLEN (R133). -/
def overMaxLen (maxLen : Option Nat) (payload : Nat) : Bool :=
  match maxLen with
  | none => false
  | some m => decide (m < payload)

/-! ### The host's inputs -/

/-- The next input of the host and the state without it, or nothing when the engine is idle (R50, R177). -/
def State.takeInput (s : State) : Option (HostInput × State) :=
  match s.pending with
  | [] => none
  | i :: rest => some (i, { s with pending := rest })

/-- The state with one more frame for the engine to take next. -/
def State.offerFrame (s : State) (F : List Byte) : State :=
  { s with pending := .frame F :: s.pending }

end Sys2Proof.Machine
end

