-- ==== Sys2Proof/Machine/Flags.lean ====
section
/-! DEFINITION. The six `loaded` flags, the only flags of the engine (R12, R18, R19): the checks that read them
(R135), clearing all six (R119) and the reset input (R160). Setting them is part of LFSR.LOAD (R83) and of
InitGen (R90). -/

namespace Sys2Proof.Machine

/-- All three registers of a generator are loaded: what every KSG command but KSG.INIT requires (R135). -/
def Generator.loaded (k : Generator) : Bool :=
  k.a.loaded && k.b.loaded && k.c.loaded

/-- All three registers of a slot are loaded (R135, R162). -/
def State.slotLoaded (s : State) (g : Slot) : Bool :=
  (s.slot g).loaded

/-- Clear all six loaded flags (R119). What the registers hold from then on is unspecified (R12, U15): free
values of a fresh index. -/
def State.unloadAll (s : State) : State :=
  { s with
    g0 := unloadedGenerator (s.unloads + 1) .g0
    g1 := unloadedGenerator (s.unloads + 1) .g1
    unloads := s.unloads + 1 }

/-- The reset input, asserted between two commands (R160, R161): the registers as R21 leaves them, and no
response. -/
def State.assertReset (s : State) : State :=
  s.unloadAll

end Sys2Proof.Machine
end

