-- ==== Sys2Proof/Machine/Codec.lean ====
section
/-! DEFINITION. The ContainerCodec: the mode test (R110), the procedures Decrypt (R112) and Encrypt (R113) over
the container map of R36, and the meanings of the three CODEC commands (R111 to R113). -/

namespace Sys2Proof.Machine

/-- HasMagic (R110): all 28 bytes of the signature, exactly. -/
def hasMagic (input : List Byte) : Bool :=
  decide (magicLen ≤ input.length) && (slice input 0 magicLen == magic)

/-- Steps 1 to 5 of Decrypt (R112) on a container that passed the guards: slot 0 unwraps the payload key with
the stored kek, slot 1 transforms the payload; then all six loaded flags are cleared (R119). -/
def State.decryptContainer (s : State) (input : List Byte) : List Byte × State :=
  let s1 := s.initSlot .g0 (slice input 80 92)
  let (recoveredKey, s2) := s1.crypt .g0 (slice input 92 104)
  let s3 := s2.initSlot .g1 recoveredKey
  let (plaintext, s4) := s3.crypt .g1 (input.drop hdrLen)
  (plaintext, s4.unloadAll)

/-- Decrypt with its guards, in the order of R112: E_NOT_CONTAINER, E_MALFORMED_CONTAINER, E_LENGTH. -/
def State.decryptCommand (s : State) (input : List Byte) : State :=
  if hasMagic input then
    if input.length < hdrLen then
      s.refuse .malformedContainer
    else if overMaxLen s.params.maxLen (input.length - hdrLen) then
      s.refuse .length
    else
      let (plaintext, t) := s.decryptContainer input
      t.respond (.ok .decrypt plaintext)
  else
    s.refuse .notContainer

/-- The 104 header bytes Encrypt writes (R36, R113). -/
def containerHeader (pad wrapped : List Byte) : List Byte :=
  magic ++ pad ++ List.replicate rsvLen 0x00 ++ kek ++ wrapped

/-- Encrypt (R113) after its guard: the key and then the padding are drawn; slot 1 transforms the payload, slot 0
wraps the key under KEK; then all six loaded flags are cleared (R119). -/
def State.encryptPayload (s : State) (input : List Byte) : List Byte × State :=
  let (key, s1) := s.draw keyLen
  let (pad, s2) := s1.draw padLen
  let s3 := s2.initSlot .g1 key
  let (ciphertext, s4) := s3.crypt .g1 input
  let s5 := s4.initSlot .g0 kek
  let (wrapped, s6) := s5.crypt .g0 key
  (containerHeader pad wrapped ++ ciphertext, s6.unloadAll)

/-- Encrypt with its guard (R113): E_LENGTH, before any draw. -/
def State.encryptCommand (s : State) (input : List Byte) : State :=
  if overMaxLen s.params.maxLen input.length then
    s.refuse .length
  else
    let (container, t) := s.encryptPayload input
    t.respond (.ok .encrypt container)

/-- `CODEC.RUN input` (R111): the mode is chosen once, by the first 28 bytes. -/
def execCodecRun (input : List Byte) (s : State) : Host.Outcome State Fault Refusal :=
  if hasMagic input then
    .next (s.decryptCommand input)
  else
    .next (s.encryptCommand input)

/-- `CODEC.DECRYPT input` (R112). -/
def execCodecDecrypt (input : List Byte) (s : State) : Host.Outcome State Fault Refusal :=
  .next (s.decryptCommand input)

/-- `CODEC.ENCRYPT input` (R113): no look at the magic. -/
def execCodecEncrypt (input : List Byte) (s : State) : Host.Outcome State Fault Refusal :=
  .next (s.encryptCommand input)

end Sys2Proof.Machine
end

