-- ==== Sys2Proof/Machine/Ksg.lean ====
section
/-! DEFINITION. The meanings of the KeystreamGenerator commands, R91, R93, R96, R99 and R100. The order of the
checks is R138. -/

namespace Sys2Proof.Machine

/-- `KSG.INIT Gg, key` (R91). A key that has not 12 bytes stands for no frame of the right length and gets the
status of R132. -/
def execKsgInit (g : Slot) (key : List Byte) (s : State) : Host.Outcome State Fault Refusal :=
  if key.length = keyLen then
    .next ((s.initSlot g key).respondOk [])
  else
    .next (s.refuse .frame)

/-- `KSG.NEXTBIT Gg` (R93). -/
def execKsgNextBit (g : Slot) (s : State) : Host.Outcome State Fault Refusal :=
  if s.slotLoaded g then
    let (bit, t) := s.nextBit g
    .next (t.respondOk [bitByte bit])
  else
    .next (s.refuse .uninit)

/-- `KSG.NEXTBITS Gg, n` (R96): four bytes, whatever `n` is (R60). -/
def execKsgNextBits (g : Slot) (n : Byte) (s : State) : Host.Outcome State Fault Refusal :=
  if n.toNat ≤ nMax then
    if s.slotLoaded g then
      let (acc, t) := s.nextBits g n.toNat
      .next (t.respondOk (bytesLe32 acc))
    else
      .next (s.refuse .uninit)
  else
    .next (s.refuse .operand)

/-- `KSG.CRYPTBYTE Gg, v` (R99). -/
def execKsgCryptByte (g : Slot) (v : Byte) (s : State) : Host.Outcome State Fault Refusal :=
  if s.slotLoaded g then
    let (o, t) := s.cryptByte g v
    .next (t.respondOk [o])
  else
    .next (s.refuse .uninit)

/-- `KSG.CRYPT Gg, buf` (R100): E_LENGTH comes before E_UNINIT (R138). -/
def execKsgCrypt (g : Slot) (buf : List Byte) (s : State) : Host.Outcome State Fault Refusal :=
  if overMaxLen s.params.maxLen buf.length then
    .next (s.refuse .length)
  else if s.slotLoaded g then
    let (out, t) := s.crypt g buf
    .next (t.respondOk out)
  else
    .next (s.refuse .uninit)

end Sys2Proof.Machine
end

