-- ==== Sys2Proof/Machine/Lfsr.lean ====
section
/-! DEFINITION. The meanings of the ClockedRegister commands, R83 to R85. -/

namespace Sys2Proof.Machine

/-- `LFSR.LOAD Gg.X, seed` (R83): the seed as it is, zero included, and the flag set. -/
def execLfsrLoad (g : Slot) (x : RegName) (seed : Word) (s : State) : Host.Outcome State Fault Refusal :=
  .next ((s.setReg g x { value := seed, loaded := true }).respondOk [])

/-- `LFSR.PEEK Gg.X` (R84). -/
def execLfsrPeek (g : Slot) (x : RegName) (s : State) : Host.Outcome State Fault Refusal :=
  if (s.reg g x).loaded then
    .next (s.respondOk [bitByte (peek (s.reg g x))])
  else
    .next (s.refuse .uninit)

/-- `LFSR.ADVANCE Gg.X` (R85). -/
def execLfsrAdvance (g : Slot) (x : RegName) (s : State) : Host.Outcome State Fault Refusal :=
  if (s.reg g x).loaded then
    let (took, t) := s.advanceReg g x
    .next (t.respondOk [bitByte took])
  else
    .next (s.refuse .uninit)

end Sys2Proof.Machine
end

