-- ==== Sys2Proof/Machine/Dispatch.lean ====
section
/-! DEFINITION. Which meaning each command of the opcode table has (R61). -/

namespace Sys2Proof.Machine

def exec (i : Instr) (s : State) : Host.Outcome State Fault Refusal :=
  match i with
  | .lfsrLoad g x seed => Sys2Proof.Machine.execLfsrLoad g x seed s
  | .lfsrPeek g x => Sys2Proof.Machine.execLfsrPeek g x s
  | .lfsrAdvance g x => Sys2Proof.Machine.execLfsrAdvance g x s
  | .ksgInit g key => Sys2Proof.Machine.execKsgInit g key s
  | .ksgNextBit g => Sys2Proof.Machine.execKsgNextBit g s
  | .ksgNextBits g n => Sys2Proof.Machine.execKsgNextBits g n s
  | .ksgCryptByte g v => Sys2Proof.Machine.execKsgCryptByte g v s
  | .ksgCrypt g buf => Sys2Proof.Machine.execKsgCrypt g buf s
  | .codecRun input => Sys2Proof.Machine.execCodecRun input s
  | .codecDecrypt input => Sys2Proof.Machine.execCodecDecrypt input s
  | .codecEncrypt input => Sys2Proof.Machine.execCodecEncrypt input s

end Sys2Proof.Machine
end

