-- ==== Sys2Proof/Machine/Step.lean ====
section
/-! DEFINITION. One step: the engine takes the host's next input and deals with it to completion (R39, R43, R50). -/

namespace Sys2Proof.Machine

/-- One step. With no input the engine is idle and holds its state (R176). A reset is obeyed without a response
(R160). A frame is decoded; a frame that stands for no command is refused (R62, R140), any other is executed. -/
def step (s : State) : Host.Outcome State Fault Refusal :=
  match s.takeInput with
  | none => .next s
  | some (.reset, t) => .next t.assertReset
  | some (.frame F, t) =>
    match decode F with
    | .ok i => exec i t
    | .error e => .next (t.refuse e)

/-- The state whose next step takes the frame of an opcode-table word. -/
def State.withFetchWord (s : State) (nbits w : Nat) : State :=
  s.offerFrame (frameOfTableWord nbits w)

end Sys2Proof.Machine
end

