-- ==== Sys2Proof/Safety.lean ====
section
/-! DEFINITION. What counts as a safe run, and the terms in which the statements speak: what a command leaves as
it was, what the host was answered, the rounds of a generator, the invariants of the machine. -/

namespace Sys2Proof.Machine

/-! ### Outcomes -/

/-- A step is safe when it answers a next state: no fault, no refusal (R175). -/
def SafeStep (s : State) : Prop :=
  ∃ t, step s = .next t

/-- The commands of a list executed one after the other (R39); nothing when one of them has no next state. -/
def execAll : List Instr → State → Option State
  | [], s => some s
  | i :: rest, s =>
    match exec i s with
    | .next t => execAll rest t
    | .fault _ => none
    | .refused _ => none

/-! ### What is left as it was -/

/-- Everything but the registers and the responses is as it was. -/
def SameRest (s t : State) : Prop :=
  t.params = s.params ∧ t.pending = s.pending ∧ t.rnd = s.rnd ∧ t.drawn = s.drawn ∧ t.unloads = s.unloads

/-- Both slots are as they were: all six values and all six flags. -/
def SameSlots (s t : State) : Prop :=
  t.g0 = s.g0 ∧ t.g1 = s.g1

/-- Every register but one is as it was. -/
def OtherRegsKept (g : Slot) (x : RegName) (s t : State) : Prop :=
  ∀ g' x', (g', x') ≠ (g, x) → t.reg g' x' = s.reg g' x'

/-- Every slot but one is as it was. -/
def OtherSlotKept (g : Slot) (s t : State) : Prop :=
  ∀ g', g' ≠ g → t.slot g' = s.slot g'

/-- The host got one more response. -/
def Answered (s t : State) (r : Response) : Prop :=
  t.responses = s.responses ++ [r]

/-- The command was refused: the status was answered and nothing else happened (R140). -/
def RefusedWith (s t : State) (e : Error) : Prop :=
  Answered s t (.error e) ∧ SameSlots s t ∧ SameRest s t

/-- The host's other inputs are as they were; what the unloaded registers hold may have changed. -/
def SameInputs (s t : State) : Prop :=
  t.params = s.params ∧ t.pending = s.pending ∧ t.rnd = s.rnd ∧ t.drawn = s.drawn

/-- All three registers of a slot are loaded. -/
def AllLoaded (s : State) (g : Slot) : Prop :=
  ∀ x, (s.reg g x).loaded = true

/-- None of the six registers is loaded. -/
def AllUnloaded (t : State) : Prop :=
  ∀ g x, (t.reg g x).loaded = false

/-! ### Which slot a command addresses -/

/-- The slot an LFSR or KSG command addresses; a CODEC command addresses none (R23). -/
def slotOf : Instr → Option Slot
  | .lfsrLoad g _ _ => some g
  | .lfsrPeek g _ => some g
  | .lfsrAdvance g _ => some g
  | .ksgInit g _ => some g
  | .ksgNextBit g => some g
  | .ksgNextBits g _ => some g
  | .ksgCryptByte g _ => some g
  | .ksgCrypt g _ => some g
  | .codecRun _ => none
  | .codecDecrypt _ => none
  | .codecEncrypt _ => none

/-- The same command addressed to another slot. -/
def atSlot (h : Slot) : Instr → Instr
  | .lfsrLoad _ x seed => .lfsrLoad h x seed
  | .lfsrPeek _ x => .lfsrPeek h x
  | .lfsrAdvance _ x => .lfsrAdvance h x
  | .ksgInit _ key => .ksgInit h key
  | .ksgNextBit _ => .ksgNextBit h
  | .ksgNextBits _ n => .ksgNextBits h n
  | .ksgCryptByte _ v => .ksgCryptByte h v
  | .ksgCrypt _ buf => .ksgCrypt h buf
  | .codecRun input => .codecRun input
  | .codecDecrypt input => .codecDecrypt input
  | .codecEncrypt input => .codecEncrypt input

/-! ### Rounds and clocks -/

/-- The generator after a number of rounds (R94). -/
def roundState (m : SampleMode) : Nat → Generator → Generator
  | 0, k => k
  | n + 1, k => roundState m n (nextBit m k).2

/-- The bit of the round of that number, counted from 0 (R95). -/
def keystreamBit (m : SampleMode) (n : Nat) (k : Generator) : Bool :=
  (nextBit m (roundState m n k)).1

/-- A register after a number of clocks (R80). -/
def clocks (x : RegName) : Nat → ClockedRegister → ClockedRegister
  | 0, r => r
  | n + 1, r => clocks x n (advance x r).2

/-- Bit `i` of the value Advance gives the register at position `x` from `v`, as the table of R82 lists it. -/
def tabledBit (x : RegName) (v : Word) (i : Nat) : Bool :=
  match x, v.getLsbD 0 with
  | .a, true => if i = 31 then true else if i = 30 ∨ i = 5 ∨ i = 4 ∨ i = 0 then !v.getLsbD (i + 1) else v.getLsbD (i + 1)
  | .a, false => if i = 31 then false else v.getLsbD (i + 1)
  | .b, true => if 30 ≤ i then true else if i = 29 ∨ i = 4 then !v.getLsbD (i + 1) else v.getLsbD (i + 1)
  | .b, false => if 30 ≤ i then false else v.getLsbD (i + 1)
  | .c, true => if 28 ≤ i then true else if i = 27 ∨ i = 0 then !v.getLsbD (i + 1) else v.getLsbD (i + 1)
  | .c, false => if 28 ≤ i then false else v.getLsbD (i + 1)

/-- A little-endian number of four bytes, as the notation of 00_scope.md writes it. -/
def littleEndian (b0 b1 b2 b3 : Byte) : Nat :=
  b0.toNat + 256 * b1.toNat + 65536 * b2.toNat + 16777216 * b3.toNat

/-- The 28 bytes of the magic signature, as R16 writes them. -/
def magicBytes : List Byte :=
  [0x45, 0x6E, 0x63, 0x72, 0x79, 0x70, 0x74, 0x65, 0x64, 0x20, 0x70, 0x72, 0x6F, 0x67, 0x72, 0x61,
   0x6D, 0x20, 0x66, 0x69, 0x6C, 0x65, 0x2E, 0x0D, 0x0A, 0x32, 0x00, 0x00]

/-! ### The status of a frame -/

/-- The opcodes R131 lists. -/
def assignedOpcodes : List Byte :=
  [0x01, 0x02, 0x03, 0x10, 0x11, 0x12, 0x13, 0x14, 0x20, 0x21, 0x22]

/-- The operand length is one that R132 accepts for the opcode. -/
def lengthFits (op : Byte) (n : Nat) : Prop :=
  (op = 0x01 → n = 5) ∧ (op = 0x02 ∨ op = 0x03 ∨ op = 0x11 → n = 1) ∧ (op = 0x10 → n = 13) ∧
    (op = 0x12 ∨ op = 0x13 → n = 2) ∧ (op = 0x14 → n ≠ 0)

/-- The selector and the count are ones that R134 accepts for the opcode. -/
def operandsLegal (op : Byte) (operands : List Byte) : Prop :=
  (op = 0x01 ∨ op = 0x02 ∨ op = 0x03 → operands.getD 0 0 ∈ ([0x00, 0x01, 0x02, 0x04, 0x05, 0x06] : List Byte)) ∧
    (op = 0x10 ∨ op = 0x11 ∨ op = 0x12 ∨ op = 0x13 ∨ op = 0x14 → operands.getD 0 0 ∈ ([0x00, 0x01] : List Byte)) ∧
    (op = 0x12 → (operands.getD 1 0).toNat ≤ 32)

/-- The payload of the command is longer than MAXLEN (R133). -/
def payloadTooLong (s : State) (op : Byte) (operands : List Byte) : Prop :=
  ∃ m, s.params.maxLen = some m ∧
    (op = 0x14 ∧ m < operands.length - 1 ∨
      op = 0x22 ∧ m < operands.length ∨
      op = 0x20 ∧ ¬ magicBytes <+: operands ∧ m < operands.length ∨
      (op = 0x20 ∨ op = 0x21) ∧ magicBytes <+: operands ∧ m < operands.length - 104)

/-- The register a legal selector names, as R55 lists the six. -/
def namedRegister (sel : Byte) : Slot × RegName :=
  if sel = 0x00 then (.g0, .a) else if sel = 0x01 then (.g0, .b) else if sel = 0x02 then (.g0, .c)
  else if sel = 0x04 then (.g1, .a) else if sel = 0x05 then (.g1, .b) else (.g1, .c)

/-- The slot a legal slot selector names, as R56 lists the two. -/
def namedSlot (g : Byte) : Slot :=
  if g = 0x00 then .g0 else .g1

/-- The command would read a register that is not loaded (R135). -/
def readsUnloaded (s : State) (op : Byte) (operands : List Byte) : Prop :=
  (op = 0x02 ∨ op = 0x03) ∧
      (s.reg (namedRegister (operands.getD 0 0)).1 (namedRegister (operands.getD 0 0)).2).loaded = false ∨
    (op = 0x11 ∨ op = 0x12 ∨ op = 0x13 ∨ op = 0x14) ∧
      ∃ x, (s.reg (namedSlot (operands.getD 0 0)) x).loaded = false

/-- The causes of the statuses, for a frame with an opcode: what R132 to R137 say. -/
def errorApplies (s : State) (op : Byte) (operands : List Byte) : Error → Prop
  | .illegalCmd => op ∉ assignedOpcodes
  | .frame => ¬ lengthFits op operands.length
  | .operand => ¬ operandsLegal op operands
  | .notContainer => op = 0x21 ∧ ¬ magicBytes <+: operands
  | .malformedContainer => (op = 0x20 ∨ op = 0x21) ∧ magicBytes <+: operands ∧ operands.length < 104
  | .length => payloadTooLong s op operands
  | .uninit => readsUnloaded s op operands

/-- The order of R138. -/
def errorPriority : List Error :=
  [.illegalCmd, .frame, .operand, .notContainer, .malformedContainer, .length, .uninit]

/-- The status is the first in the order of R138 whose cause applies to the frame. -/
def FirstThatApplies (s : State) (op : Byte) (operands : List Byte) (e : Error) : Prop :=
  ∃ before after, errorPriority = before ++ e :: after ∧ errorApplies s op operands e ∧
    ∀ e' ∈ before, ¬ errorApplies s op operands e'

/-! ### Random bytes -/

/-- The byte the random source answers to the draw `n` draws from now (R38): the supplied one, or a free one. -/
def State.nextRandom (s : State) (n : Nat) : Byte :=
  match s.rnd[n]? with
  | some v => v
  | none => Config.rndByte (s.drawn + n)

/-- The random bytes of the draws `lo` up to but not including `lo + count` from now. -/
def State.randomBytes (s : State) (lo count : Nat) : List Byte :=
  (List.range count).map fun n => s.nextRandom (lo + n)

/-! ### Invariants -/

/-- How many frames the host has yet to have answered. -/
def frameCount : List HostInput → Nat
  | [] => 0
  | .frame _ :: rest => frameCount rest + 1
  | .reset :: rest => frameCount rest

/-- Every frame is answered exactly once: answered and waiting frames add up to `n` (R51). -/
def AnswersAccountedFor (n : Nat) (s : State) : Prop :=
  s.responses.length + frameCount s.pending = n

/-- Bytes are drawn 60 at a time or not at all (R38, R140, R144). -/
def WholeDraws (s : State) : Prop :=
  s.drawn % 60 = 0

/-- A register that is not loaded holds the free value of the last unloading and nothing else (R12, R119, U15). -/
def UnloadedUnspecified (s : State) : Prop :=
  ∀ g x, (s.reg g x).loaded = false → (s.reg g x).value = Config.unloadedValue s.unloads g x

/-- Two states that a host cannot tell apart from here on: the same parameters and random source, the same flags,
and the same values wherever a flag is set. -/
def Indistinguishable (s s' : State) : Prop :=
  s'.params = s.params ∧ s'.rnd = s.rnd ∧ s'.drawn = s.drawn ∧
    ∀ g x, (s'.reg g x).loaded = (s.reg g x).loaded ∧
      ((s.reg g x).loaded = true → (s'.reg g x).value = (s.reg g x).value)

end Sys2Proof.Machine
end

