-- ==== Sys2Proof/Certificates/Slice0/Obligations.lean ====
section
/-! DEFINITION. The statements for the provers. Each docstring names the rule or the section of spec/ it follows; a
clause that rests on a choice of the model names the log entry. -/

open Sys2Proof
open Sys2Proof.Machine

/-! ### Frames and commands -/

/-- O1. Every well-formed command is read back from its frame (R52 to R61). -/
def Obligations.DecodeOfEncodeIsTheCommand : Prop :=
  ∀ i : Instr, i.wellFormed = true → decode (encode i) = .ok i

/-- O2. A frame that decodes is the frame of a well-formed command: every byte of it counts (R52 to R63). -/
def Obligations.EncodeOfDecodeIsTheFrame : Prop :=
  ∀ (F : List Byte) (i : Instr), decode F = .ok i → encode i = F ∧ i.wellFormed = true

/-- O3. Frames the spec writes out, one at least of each opcode, decode to the commands they stand for: V3, P5 step 3
(the command of V12), V20b, V24, V26, P5 step 4, V44, E24 and V40 of 95_test_vectors.md. -/
def Obligations.WrittenFramesDecode : Prop :=
  decode [0x01, 0x00, 0xDF, 0x9B, 0x57, 0x13] = .ok (.lfsrLoad .g0 .a 0x13579BDF) ∧
  decode [0x02, 0x04] = .ok (.lfsrPeek .g1 .a) ∧
  decode [0x03, 0x06] = .ok (.lfsrAdvance .g1 .c) ∧
  decode [0x10, 0x01, 0xAA, 0xBB, 0xCC, 0xDD, 0x00, 0x00, 0x00, 0x00, 0x11, 0x22, 0x33, 0x44] =
    .ok (.ksgInit .g1 [0xAA, 0xBB, 0xCC, 0xDD, 0x00, 0x00, 0x00, 0x00, 0x11, 0x22, 0x33, 0x44]) ∧
  decode [0x11, 0x00] = .ok (.ksgNextBit .g0) ∧
  decode [0x12, 0x00, 0x20] = .ok (.ksgNextBits .g0 32) ∧
  decode [0x13, 0x00, 0xFF] = .ok (.ksgCryptByte .g0 0xFF) ∧
  decode [0x14, 0x01, 0xFC, 0x0F, 0x3C, 0x2B] = .ok (.ksgCrypt .g1 [0xFC, 0x0F, 0x3C, 0x2B]) ∧
  decode [0x20, 0x41, 0x42] = .ok (.codecRun [0x41, 0x42]) ∧
  decode [0x21, 0x41, 0x42] = .ok (.codecDecrypt [0x41, 0x42]) ∧
  decode [0x22, 0x48, 0x65, 0x6C, 0x6C, 0x6F, 0x2C, 0x20, 0x77, 0x6F, 0x72, 0x6C, 0x64, 0x21] =
    .ok (.codecEncrypt [0x48, 0x65, 0x6C, 0x6C, 0x6F, 0x2C, 0x20, 0x77, 0x6F, 0x72, 0x6C, 0x64, 0x21])

/-! ### The step -/

/-- O4. A frame that decodes is executed, on the state from which the frame has been taken (R50, R61). -/
def Obligations.StepExecutesTheDecodedCommand : Prop :=
  ∀ (s : State) (F : List Byte) (rest : List HostInput) (i : Instr),
    s.pending = .frame F :: rest → decode F = .ok i → step s = exec i { s with pending := rest }

/-- O5. The status of every frame is the first cause of R131 to R137 that applies, in the order of R138; when
none applies the status is OK. -/
def Obligations.StatusIsTheFirstThatApplies : Prop :=
  ∀ (s : State) (F : List Byte) (rest : List HostInput), s.pending = .frame F :: rest →
    ∃ t, step s = .next t ∧
      (F = [] → Answered s t (.error .illegalCmd)) ∧
      (∀ op operands, F = op :: operands → ∀ e, Answered s t (.error e) ↔ FirstThatApplies s op operands e) ∧
      (∀ op operands, F = op :: operands → (∀ e, ¬ FirstThatApplies s op operands e) →
        ∃ info out, Answered s t (.ok info out))

/-- O6. A refused frame leaves no trace but its two-byte response (R140). -/
def Obligations.RefusalLeavesNoTrace : Prop :=
  ∀ (s t : State) (F : List Byte) (rest : List HostInput) (e : Error),
    s.pending = .frame F :: rest → step s = .next t → Answered s t (.error e) →
      t = { s with pending := rest, responses := s.responses ++ [.error e] } ∧
      Response.bytes (.error e) = [errorCode e, 0x00]

/-- O7. Every frame gets exactly one response, of the layout of R51: status, info, and after OK the whole data of the
response. The status is 0x00 for OK and the number that the table of 60_exceptions.md section 1 gives each error; the
info byte after OK is the number of the mode (R58). -/
def Obligations.EveryFrameIsAnsweredOnce : Prop :=
  ∀ (s : State) (F : List Byte) (rest : List HostInput), s.pending = .frame F :: rest →
    ∃ t r status info out, step s = .next t ∧ t.pending = rest ∧ Answered s t r ∧
      r.bytes = status :: info :: out ∧ (status ≠ 0x00 → info = 0x00 ∧ out = []) ∧
      (∀ o, r = .ok .none o → info = 0x00 ∧ out = o) ∧ (∀ o, r = .ok .encrypt o → info = 0x01 ∧ out = o) ∧
      (∀ o, r = .ok .decrypt o → info = 0x02 ∧ out = o) ∧
      ((status = 0x00) ↔ ∃ i o, r = .ok i o) ∧
      (status = 0x01 ↔ r = .error .illegalCmd) ∧ (status = 0x02 ↔ r = .error .frame) ∧
      (status = 0x03 ↔ r = .error .length) ∧ (status = 0x04 ↔ r = .error .operand) ∧
      (status = 0x05 ↔ r = .error .uninit) ∧ (status = 0x06 ↔ r = .error .malformedContainer) ∧
      (status = 0x07 ↔ r = .error .notContainer) ∧ status.toNat ≤ 7

/-- O8. With no input the engine holds its state (60_exceptions.md section 6); a reset unloads all six registers,
is not answered and takes nothing else from the host (R160; modelled between commands, log entry 8). -/
def Obligations.IdleHoldsAndResetUnloads : Prop :=
  (∀ s : State, s.pending = [] → step s = .next s) ∧
  (∀ (s : State) (rest : List HostInput), s.pending = .reset :: rest →
    ∃ t, step s = .next t ∧ AllUnloaded t ∧ t.pending = rest ∧ t.responses = s.responses ∧
      t.params = s.params ∧ t.rnd = s.rnd ∧ t.drawn = s.drawn)

/-- O9. No step faults or refuses: every command terminates with a next state (70_reset_and_hazards.md section 4; the
model's reading of a refused command as a next state is log entry 13). This rests on the assumption, made in
60_exceptions.md section 6 and 70_reset_and_hazards.md section 5, that the random source always answers: log entry 9,
unsafe for an Encrypt whose source stalls. -/
def Obligations.EveryStepIsSafe : Prop :=
  ∀ s : State, SafeStep s

/-! ### The ClockedRegister -/

/-- O10. Advance, bit by bit, for each register and both branches (the table of 40_lfsr.md section 1). -/
def Obligations.AdvanceFollowsTheBitTable : Prop :=
  ∀ (x : RegName) (r : ClockedRegister),
    (advance x r).1 = r.value.getLsbD 0 ∧ (advance x r).2.loaded = r.loaded ∧
    ∀ i, i < 32 → (advance x r).2.value.getLsbD i = tabledBit x r.value i

/-- O11. Zero is a fixed point for every mask and rot, it peeks 0, and at A it steers to C; on the branch without
feedback no other value is one (R86). -/
def Obligations.ZeroIsTheFixedPoint : Prop :=
  (∀ (mask rot : Word) (r : ClockedRegister), r.value = 0 → clock mask rot (~~~rot) r = (false, r)) ∧
  (∀ (x : RegName) (r : ClockedRegister), r.value = 0 → peek r = false ∧ ∀ n, clocks x n r = r) ∧
  (∀ (m : SampleMode) (k : Generator), k.a.value = 0 →
    (nextBit m k).2 = { a := k.a, b := k.b, c := (advance .c k.c).2 }) ∧
  (∀ (x : RegName) (r : ClockedRegister), peek r = false → (advance x r).2.value = r.value → r.value = 0)

/-- O12. After an Advance the bits above the register's own width all equal the returned bit (40_lfsr.md
section 3). -/
def Obligations.AdvanceForcesTheHighBits : Prop :=
  ∀ (x : RegName) (r : ClockedRegister) (i : Nat),
    (x = .a ∧ i = 31 ∨ x = .b ∧ (i = 31 ∨ i = 30) ∨ x = .c ∧ 28 ≤ i ∧ i ≤ 31) →
      (advance x r).2.value.getLsbD i = (advance x r).1

/-- O13. The only non-zero values that step to zero are 0x80000000 at B and, at C, those confined to bits 31..29
(41_keystream.md section 1; conflict C9). -/
def Obligations.OnlyTheListedWordsStepToZero : Prop :=
  ∀ (x : RegName) (r : ClockedRegister), r.value ≠ 0 →
    ((advance x r).2.value = 0 ↔ (x = .b ∧ r.value = 0x80000000) ∨ (x = .c ∧ r.value &&& 0x1FFFFFFF = 0))

/-- O14. LFSR.LOAD stores the seed as it is, sets the flag, answers nothing and touches nothing else
(40_lfsr.md section 2). -/
def Obligations.LoadWritesOneRegister : Prop :=
  ∀ (g : Slot) (x : RegName) (seed : Word) (s : State),
    ∃ t, exec (.lfsrLoad g x seed) s = .next t ∧ t.reg g x = { value := seed, loaded := true } ∧
      OtherRegsKept g x s t ∧ SameRest s t ∧ Answered s t (.ok .none [])

/-- O15. LFSR.PEEK on a loaded register answers bit 0 and writes nothing (R81). -/
def Obligations.PeekAnswersBitZero : Prop :=
  ∀ (g : Slot) (x : RegName) (s : State), (s.reg g x).loaded = true →
    ∃ t, exec (.lfsrPeek g x) s = .next t ∧ SameSlots s t ∧ SameRest s t ∧
      Answered s t (.ok .none [if (s.reg g x).value.getLsbD 0 then 0x01 else 0x00])

/-- O16. LFSR.ADVANCE on a loaded register steps that register once, answers the bit it found, and touches nothing
else (R80 gives the new value). -/
def Obligations.AdvanceStepsOneRegister : Prop :=
  ∀ (g : Slot) (x : RegName) (s : State), (s.reg g x).loaded = true →
    ∃ t, exec (.lfsrAdvance g x) s = .next t ∧
      ((s.reg g x).value.getLsbD 0 = true →
        t.reg g x = { value := (((s.reg g x).value ^^^ maskOf x) >>> 1) ||| ~~~(rotOf x), loaded := true }) ∧
      ((s.reg g x).value.getLsbD 0 = false →
        t.reg g x = { value := ((s.reg g x).value >>> 1) &&& rotOf x, loaded := true }) ∧
      OtherRegsKept g x s t ∧ SameRest s t ∧
      Answered s t (.ok .none [if (s.reg g x).value.getLsbD 0 then 0x01 else 0x00])

/-- O17. Two peeks answer the same bit, bit 0 of the register, and it is the bit the next advance answers
(40_lfsr.md section 2). -/
def Obligations.PeekForetellsAdvance : Prop :=
  ∀ (g : Slot) (x : RegName) (s : State), (s.reg g x).loaded = true →
    ∃ t r, execAll [.lfsrPeek g x, .lfsrPeek g x, .lfsrAdvance g x] s = some t ∧
      r = .ok .none [if (s.reg g x).value.getLsbD 0 then 0x01 else 0x00] ∧
      t.responses = s.responses ++ [r, r, r]

/-- O18. A command that would read an unloaded register is refused with E_UNINIT, whatever its count or buffer
length; the commands that read none never are (R135). -/
def Obligations.UnloadedReadsAreRefused : Prop :=
  (∀ (g : Slot) (x : RegName) (s : State), (s.reg g x).loaded = false →
    (∃ t, exec (.lfsrPeek g x) s = .next t ∧ RefusedWith s t .uninit) ∧
    (∃ t, exec (.lfsrAdvance g x) s = .next t ∧ RefusedWith s t .uninit)) ∧
  (∀ (g : Slot) (x : RegName) (s : State), (s.reg g x).loaded = false →
    (∃ t, exec (.ksgNextBit g) s = .next t ∧ RefusedWith s t .uninit) ∧
    (∀ n : Byte, n.toNat ≤ 32 → ∃ t, exec (.ksgNextBits g n) s = .next t ∧ RefusedWith s t .uninit) ∧
    (∀ v, ∃ t, exec (.ksgCryptByte g v) s = .next t ∧ RefusedWith s t .uninit) ∧
    (∀ buf, overMaxLen s.params.maxLen buf.length = false →
      ∃ t, exec (.ksgCrypt g buf) s = .next t ∧ RefusedWith s t .uninit)) ∧
  (∀ (i : Instr) (s t : State),
    (slotOf i = none ∨ (∃ g x seed, i = .lfsrLoad g x seed) ∨ ∃ g key, i = .ksgInit g key) →
      exec i s = .next t → ¬ Answered s t (.error .uninit))

/-! ### The KeystreamGenerator -/

/-- O19. KSG.INIT loads the three registers of its slot with the little-endian words of the key, the first into A,
a zero word replaced by the register's default seed, and touches nothing else (41_keystream.md section 1). -/
def Obligations.InitSeedsTheSlot : Prop :=
  ∀ (g : Slot) (k0 k1 k2 k3 k4 k5 k6 k7 k8 k9 k10 k11 : Byte) (s : State),
    ∃ t, exec (.ksgInit g [k0, k1, k2, k3, k4, k5, k6, k7, k8, k9, k10, k11]) s = .next t ∧
      (t.reg g .a).value.toNat =
        (if littleEndian k0 k1 k2 k3 = 0 then 0x13579BDF else littleEndian k0 k1 k2 k3) ∧
      (t.reg g .b).value.toNat =
        (if littleEndian k4 k5 k6 k7 = 0 then 0x2468ACE0 else littleEndian k4 k5 k6 k7) ∧
      (t.reg g .c).value.toNat =
        (if littleEndian k8 k9 k10 k11 = 0 then 0xFDB97531 else littleEndian k8 k9 k10 k11) ∧
      AllLoaded t g ∧ OtherSlotKept g s t ∧ SameRest s t ∧ Answered s t (.ok .none [])

/-- O20. KSG.NEXTBIT on a loaded slot clocks A, and B or C as A's low bit says, and answers the xor of the low bits
of B and C, after the clocks under POST, before them under PRE (41_keystream.md section 2). -/
def Obligations.NextBitClocksAAndOneOther : Prop :=
  ∀ (g : Slot) (s : State), AllLoaded s g →
    ∃ t out, exec (.ksgNextBit g) s = .next t ∧
      t.reg g .a = (advance .a (s.reg g .a)).2 ∧
      ((s.reg g .a).value.getLsbD 0 = true →
        t.reg g .b = (advance .b (s.reg g .b)).2 ∧ t.reg g .c = s.reg g .c) ∧
      ((s.reg g .a).value.getLsbD 0 = false →
        t.reg g .b = s.reg g .b ∧ t.reg g .c = (advance .c (s.reg g .c)).2) ∧
      (s.params.sampleMode = .post →
        out = ((t.reg g .b).value.getLsbD 0 ^^ (t.reg g .c).value.getLsbD 0)) ∧
      (s.params.sampleMode = .pre →
        out = ((s.reg g .b).value.getLsbD 0 ^^ (s.reg g .c).value.getLsbD 0)) ∧
      OtherSlotKept g s t ∧ SameRest s t ∧ Answered s t (.ok .none [if out then 0x01 else 0x00])

/-- O21. In every round A is clocked once and exactly one of B and C is, as A's low bit says; over `n` rounds A is
clocked `n` times and the clocks of B and C add up to `n` (R94). -/
def Obligations.ExactlyOneOfBAndCPerRound : Prop :=
  (∀ (m : SampleMode) (k : Generator), (nextBit m k).2.a = (advance .a k.a).2 ∧
    (k.a.value.getLsbD 0 = true → (nextBit m k).2.b = (advance .b k.b).2 ∧ (nextBit m k).2.c = k.c) ∧
    (k.a.value.getLsbD 0 = false → (nextBit m k).2.b = k.b ∧ (nextBit m k).2.c = (advance .c k.c).2)) ∧
  (∀ (m : SampleMode) (n : Nat) (k : Generator), ∃ p q, p + q = n ∧
    (roundState m n k).a = clocks .a n k.a ∧ (roundState m n k).b = clocks .b p k.b ∧
    (roundState m n k).c = clocks .c q k.c)

/-- O22. NextBits packs the bits of its rounds into an `n`-bit number, the first bit highest (R95). -/
def Obligations.NextBitsPacksTheFirstBitHighest : Prop :=
  ∀ (m : SampleMode) (n : Nat) (k : Generator), n ≤ 32 →
    (nextBits m n k).2 = roundState m n k ∧ (nextBits m n k).1.toNat < 2 ^ n ∧
    (∀ j, j < n → (nextBits m n k).1.getLsbD j = keystreamBit m (n - 1 - j) k)

/-- O23. KSG.NEXTBITS on a loaded slot with a count up to 32 answers the number of O22 as four bytes, the least
significant first, and advances its slot by that many rounds (R60 and 41_keystream.md section 3). -/
def Obligations.NextBitsAnswersFourBytes : Prop :=
  ∀ (g : Slot) (n : Byte) (s : State), n.toNat ≤ 32 → AllLoaded s g →
    ∃ t b0 b1 b2 b3, exec (.ksgNextBits g n) s = .next t ∧
      t.slot g = roundState s.params.sampleMode n.toNat (s.slot g) ∧
      littleEndian b0 b1 b2 b3 = (nextBits s.params.sampleMode n.toNat (s.slot g)).1.toNat ∧
      OtherSlotKept g s t ∧ SameRest s t ∧ Answered s t (.ok .none [b0, b1, b2, b3])

/-- O24. Splitting a count is exact (41_keystream.md section 3). -/
def Obligations.NextBitsSplits : Prop :=
  ∀ (m : SampleMode) (n1 n2 : Nat) (k : Generator), n1 + n2 ≤ 32 →
    (nextBits m n1 k).1.toNat * 2 ^ n2 + (nextBits m n2 (nextBits m n1 k).2).1.toNat =
      (nextBits m (n1 + n2) k).1.toNat ∧
    (nextBits m n2 (nextBits m n1 k).2).2 = (nextBits m (n1 + n2) k).2

/-- O25. KSG.CRYPTBYTE on a loaded slot answers the byte xor eight keystream bits, the first at bit 7, and advances
its slot by eight rounds (R97). -/
def Obligations.CryptByteXorsEightBits : Prop :=
  ∀ (g : Slot) (v : Byte) (s : State), AllLoaded s g →
    ∃ t o, exec (.ksgCryptByte g v) s = .next t ∧
      (∀ j, j < 8 → o.getLsbD (7 - j) = (v.getLsbD (7 - j) ^^ keystreamBit s.params.sampleMode j (s.slot g))) ∧
      t.slot g = roundState s.params.sampleMode 8 (s.slot g) ∧
      OtherSlotKept g s t ∧ SameRest s t ∧ Answered s t (.ok .none [o])

/-- O26. KSG.CRYPT on a loaded slot answers as many bytes as it was given, byte `i` xor the keystream bits
`8 * i` to `8 * i + 7`, and advances its slot by `8 * len` rounds (R98). -/
def Obligations.CryptXorsTheKeystream : Prop :=
  ∀ (g : Slot) (buf : List Byte) (s : State),
    overMaxLen s.params.maxLen buf.length = false → AllLoaded s g →
    ∃ t out, exec (.ksgCrypt g buf) s = .next t ∧ out.length = buf.length ∧
      (∀ i, i < buf.length → ∀ j, j < 8 → (out.getD i 0).getLsbD (7 - j) =
        ((buf.getD i 0).getLsbD (7 - j) ^^ keystreamBit s.params.sampleMode (8 * i + j) (s.slot g))) ∧
      t.slot g = roundState s.params.sampleMode (8 * buf.length) (s.slot g) ∧
      OtherSlotKept g s t ∧ SameRest s t ∧ Answered s t (.ok .none out)

/-- O27. KSG.CRYPT of a ciphertext from the same starting state gives the plaintext back, and the state it leaves
depends on the length of the data alone (R101). -/
def Obligations.CryptIsSelfInverse : Prop :=
  (∀ (g : Slot) (P : List Byte) (s s' : State), AllLoaded s g → s'.slot g = s.slot g → s'.params = s.params →
    overMaxLen s.params.maxLen P.length = false →
    ∃ t t' C, exec (.ksgCrypt g P) s = .next t ∧ Answered s t (.ok .none C) ∧
      exec (.ksgCrypt g C) s' = .next t' ∧ Answered s' t' (.ok .none P)) ∧
  (∀ (g : Slot) (buf buf' : List Byte) (s t t' : State), buf'.length = buf.length →
    exec (.ksgCrypt g buf) s = .next t → exec (.ksgCrypt g buf') s = .next t' → t'.slot g = t.slot g)

/-- O28. Two generators built from the same key answer the same to the same later commands, in either slot and on
either engine, whatever the engines held before (R102). -/
def Obligations.SameKeySameAnswers : Prop :=
  ∀ (g g' : Slot) (key : List Byte) (cs : List Instr) (s s' : State), key.length = 12 → s'.params = s.params →
    (∀ c ∈ cs, slotOf c = some g) →
    ∃ t t' rs, execAll (.ksgInit g key :: cs) s = some t ∧
      execAll (.ksgInit g' key :: cs.map (atSlot g')) s' = some t' ∧
      t.responses = s.responses ++ rs ∧ t'.responses = s'.responses ++ rs ∧ t'.slot g' = t.slot g

/-- O29. KSG.CRYPT, KSG.CRYPTBYTE, KSG.NEXTBITS and KSG.NEXTBIT are one stream at four grains (R103). -/
def Obligations.FourGrainsOfOneStream : Prop :=
  (∀ (g : Slot) (buf : List Byte) (s : State), AllLoaded s g → overMaxLen s.params.maxLen buf.length = false →
    ∃ t t' out, exec (.ksgCrypt g buf) s = .next t ∧ Answered s t (.ok .none out) ∧
      execAll (buf.map (.ksgCryptByte g)) s = some t' ∧
      t'.responses = s.responses ++ out.map (fun o => .ok .none [o]) ∧ t'.slot g = t.slot g) ∧
  (∀ (g : Slot) (v : Byte) (s : State), AllLoaded s g →
    ∃ t t' ks, exec (.ksgNextBits g 8) s = .next t ∧ Answered s t (.ok .none [ks, 0x00, 0x00, 0x00]) ∧
      exec (.ksgCryptByte g v) s = .next t' ∧ Answered s t' (.ok .none [v ^^^ ks]) ∧ t'.slot g = t.slot g) ∧
  (∀ (g : Slot) (n : Byte) (s : State), AllLoaded s g → n.toNat ≤ 32 →
    ∃ (t t' : State) (b0 b1 b2 b3 : Byte) (bits : List Bool), exec (.ksgNextBits g n) s = .next t ∧ Answered s t (.ok .none [b0, b1, b2, b3]) ∧
      execAll (List.replicate n.toNat (.ksgNextBit g)) s = some t' ∧ bits.length = n.toNat ∧
      t'.responses = s.responses ++ bits.map (fun b => .ok .none [if b then 0x01 else 0x00]) ∧
      littleEndian b0 b1 b2 b3 = bits.foldl (fun acc b => 2 * acc + b.toNat) 0 ∧ t'.slot g = t.slot g) ∧
  (∀ (g : Slot) (x y : List Byte) (s : State), AllLoaded s g →
    overMaxLen s.params.maxLen (x ++ y).length = false →
    ∃ t u v o1 o2, exec (.ksgCrypt g x) s = .next t ∧ Answered s t (.ok .none o1) ∧ o1.length = x.length ∧
      exec (.ksgCrypt g y) t = .next u ∧ Answered t u (.ok .none o2) ∧
      exec (.ksgCrypt g (x ++ y)) s = .next v ∧ Answered s v (.ok .none (o1 ++ o2)) ∧ v.slot g = u.slot g)

/-- O30. The PRE keystream is the POST keystream delayed by one bit, with the xor of the initial low bits of B and C
in front; the registers do not depend on the mode (41_keystream.md section 2). -/
def Obligations.PreIsPostDelayedByOneBit : Prop :=
  ∀ (k : Generator) (n : Nat), roundState .pre n k = roundState .post n k ∧
    keystreamBit .pre 0 k = (k.b.value.getLsbD 0 ^^ k.c.value.getLsbD 0) ∧
    keystreamBit .pre (n + 1) k = keystreamBit .post n k

/-- O31. The pseudo-commands: KSG.KEYSTREAM answers raw keystream bytes, KSG.NEXTBYTE one of them and three zero
bytes (R66). -/
def Obligations.PseudoCommandsGiveTheKeystream : Prop :=
  (∀ (g : Slot) (m : Nat) (s : State), AllLoaded s g → overMaxLen s.params.maxLen m = false →
    ∃ t out, exec (ksgKeystream g m) s = .next t ∧ Answered s t (.ok .none out) ∧ out.length = m ∧
      ∀ i, i < m → ∀ j, j < 8 →
        (out.getD i 0).getLsbD (7 - j) = keystreamBit s.params.sampleMode (8 * i + j) (s.slot g)) ∧
  (∀ (g : Slot) (s : State), AllLoaded s g →
    ∃ t ks, exec (ksgNextByte g) s = .next t ∧ Answered s t (.ok .none [ks, 0x00, 0x00, 0x00]) ∧
      ∀ j, j < 8 → ks.getLsbD (7 - j) = keystreamBit s.params.sampleMode j (s.slot g))

/-- O32. One round done by hand, in the five commands of R167: peek B, peek C, advance A, then advance and peek B when
the answer to the advance of A was 1, and advance and peek C when it was 0. It leaves the slot as KSG.NEXTBIT leaves
it, and the xor of the last peek and the sample of the register not clocked is the bit KSG.NEXTBIT answers
(70_reset_and_hazards.md section 3, 95_test_vectors.md P1; SAMPLE_MODE = POST). -/
def Obligations.RoundByHandEqualsNextBit : Prop :=
  ∀ (g : Slot) (s : State), AllLoaded s g → s.params.sampleMode = .post →
    ∃ t u b c took out, exec (.ksgNextBit g) s = .next u ∧ Answered s u (.ok .none [out]) ∧
      execAll [.lfsrPeek g .b, .lfsrPeek g .c, .lfsrAdvance g .a] s = some t ∧
      t.responses = s.responses ++ [.ok .none [b], .ok .none [c], .ok .none [took]] ∧
      (took = 0x00 ∨ took = 0x01) ∧
      (took = 0x01 → ∃ v old fresh, execAll [.lfsrAdvance g .b, .lfsrPeek g .b] t = some v ∧
        v.responses = t.responses ++ [.ok .none [old], .ok .none [fresh]] ∧
        out = fresh ^^^ c ∧ v.slot g = u.slot g) ∧
      (took = 0x00 → ∃ v old fresh, execAll [.lfsrAdvance g .c, .lfsrPeek g .c] t = some v ∧
        v.responses = t.responses ++ [.ok .none [old], .ok .none [fresh]] ∧
        out = b ^^^ fresh ∧ v.slot g = u.slot g)

/-! ### What commands on a slot leave alone -/

/-- O33. A command addressed to one slot neither reads nor writes the other, and leaves the host's inputs alone; no
command but a CODEC command clears a flag, and that clears all six (R23). -/
def Obligations.SlotsDoNotShareRegisters : Prop :=
  (∀ (i : Instr) (g : Slot) (s t : State), slotOf i = some g → exec i s = .next t →
    OtherSlotKept g s t ∧ SameRest s t) ∧
  (∀ (i : Instr) (g : Slot) (s s' : State), slotOf i = some g → s'.slot g = s.slot g → s'.params = s.params →
    ∃ t t' r, exec i s = .next t ∧ exec i s' = .next t' ∧ Answered s t r ∧ Answered s' t' r ∧
      t'.slot g = t.slot g) ∧
  (∀ (i : Instr) (g : Slot) (x : RegName) (s t : State), exec i s = .next t → (s.reg g x).loaded = true →
    (t.reg g x).loaded = false → slotOf i = none ∧ AllUnloaded t)

/-- O34. A register changes only by LFSR.LOAD, by KSG.INIT and by whole clocks, which only LFSR.ADVANCE on it and the
four output commands on its slot make; a peek, a load of another register and a command addressed to the other slot
leave it alone (R88; CODEC commands apart). -/
def Obligations.RegistersChangeOnlyByRule : Prop :=
  ∀ (i : Instr) (g : Slot) (x : RegName) (s t : State), exec i s = .next t → slotOf i ≠ none →
    (∀ seed, i ≠ .lfsrLoad g x seed) → (∀ key, i ≠ .ksgInit g key) →
      (∃ n, t.reg g x = clocks x n (s.reg g x)) ∧
      (i ≠ .lfsrAdvance g x → i ≠ .ksgNextBit g → (∀ n, i ≠ .ksgNextBits g n) → (∀ v, i ≠ .ksgCryptByte g v) →
        (∀ buf, i ≠ .ksgCrypt g buf) → t.reg g x = s.reg g x)

/-- O35. The loaded flags: set by LFSR.LOAD and KSG.INIT, cleared by a CODEC command that ends with OK, kept by
everything else (10_state.md sections 1 and 2). -/
def Obligations.LoadedFlagsChangeOnlyByRule : Prop :=
  ∀ (i : Instr) (g : Slot) (x : RegName) (s t : State), exec i s = .next t →
    ((∃ seed, i = .lfsrLoad g x seed) → (t.reg g x).loaded = true) ∧
    (∀ key, i = .ksgInit g key → key.length = 12 → (t.reg g x).loaded = true) ∧
    (slotOf i = none → (∃ info out, Answered s t (.ok info out)) → (t.reg g x).loaded = false) ∧
    (slotOf i = none → (∃ e, Answered s t (.error e)) → (t.reg g x).loaded = (s.reg g x).loaded) ∧
    (slotOf i ≠ none → (∀ seed, i ≠ .lfsrLoad g x seed) → (∀ key, i ≠ .ksgInit g key) →
      (t.reg g x).loaded = (s.reg g x).loaded)

/-! ### The ContainerCodec -/

/-- O36. CODEC.RUN chooses its mode by the first 28 bytes alone: with the magic it does what CODEC.DECRYPT does,
without it what CODEC.ENCRYPT does (R110). -/
def Obligations.RunChoosesTheModeByThePrefix : Prop :=
  ∀ (input : List Byte) (s : State),
    ((∃ rest, input = magicBytes ++ rest) → exec (.codecRun input) s = exec (.codecDecrypt input) s) ∧
    ((¬ ∃ rest, input = magicBytes ++ rest) → exec (.codecRun input) s = exec (.codecEncrypt input) s)

/-- O37. CODEC.DECRYPT of a container: the stored kek unwraps the payload key, that key transforms the payload; the
padding and the reserved bytes do not matter; all six registers are unloaded (42_codec.md section 2). -/
def Obligations.DecryptUnwrapsThenDecrypts : Prop :=
  ∀ (filler kekField wrapped payload : List Byte) (s : State),
    filler.length = 52 → kekField.length = 12 → wrapped.length = 12 →
    overMaxLen s.params.maxLen payload.length = false →
    ∃ t, exec (.codecDecrypt (magicBytes ++ filler ++ kekField ++ wrapped ++ payload)) s = .next t ∧
      Answered s t (.ok .decrypt (crypt s.params.sampleMode payload
        (initGen (crypt s.params.sampleMode wrapped (initGen kekField)).1)).1) ∧
      AllUnloaded t ∧ SameInputs s t

/-- O38. CODEC.ENCRYPT: the 60 drawn bytes are the key and the padding; the header holds the magic, the padding,
four zero bytes, the all-zero kek and the wrapped key; the payload follows; all six registers are unloaded
(42_codec.md section 3; the drawn bytes are the supplied ones or free ones, log entry 3). -/
def Obligations.EncryptBuildsTheContainer : Prop :=
  ∀ (payload : List Byte) (s : State), overMaxLen s.params.maxLen payload.length = false →
    ∃ t, exec (.codecEncrypt payload) s = .next t ∧
      Answered s t (.ok .encrypt (magicBytes ++ s.randomBytes 12 48 ++ [0x00, 0x00, 0x00, 0x00] ++
        List.replicate 12 0x00 ++
        (crypt s.params.sampleMode (s.randomBytes 0 12) (initGen (List.replicate 12 0x00))).1 ++
        (crypt s.params.sampleMode payload (initGen (s.randomBytes 0 12))).1)) ∧
      AllUnloaded t ∧ t.params = s.params ∧ t.pending = s.pending ∧ t.rnd = s.rnd.drop 60 ∧
      t.drawn = s.drawn + 60

/-- O39. CODEC.RUN completes in both modes: without the magic it encrypts and draws 60 bytes, on a container it
decrypts and draws none; on a container shorter than 104 bytes it is refused (42_codec.md section 1). -/
def Obligations.RunCompletesInBothModes : Prop :=
  (∀ (payload : List Byte) (s : State), ¬ magicBytes <+: payload →
    overMaxLen s.params.maxLen payload.length = false →
    ∃ t C, exec (.codecRun payload) s = .next t ∧ Answered s t (.ok .encrypt C) ∧
      C.length = 104 + payload.length ∧ AllUnloaded t ∧ t.params = s.params ∧ t.pending = s.pending ∧
      t.rnd = s.rnd.drop 60 ∧ t.drawn = s.drawn + 60) ∧
  (∀ (input : List Byte) (s : State), magicBytes <+: input → 104 ≤ input.length →
    overMaxLen s.params.maxLen (input.length - 104) = false →
    ∃ t P, exec (.codecRun input) s = .next t ∧ Answered s t (.ok .decrypt P) ∧
      P.length = input.length - 104 ∧ AllUnloaded t ∧ SameInputs s t) ∧
  (∀ (input : List Byte) (s : State), magicBytes <+: input → input.length < 104 →
    ∃ t, exec (.codecRun input) s = .next t ∧ RefusedWith s t .malformedContainer)

/-- O40. Round trip: what CODEC.ENCRYPT makes of any payload, CODEC.DECRYPT and CODEC.RUN turn back into it; CODEC.RUN
twice does so for a payload that does not begin with the magic; one that does is never encrypted by it, and is refused
when it is shorter than a header, so that there is nothing to turn back (R114). -/
def Obligations.ContainerRoundTrip : Prop :=
  (∀ (P : List Byte) (s : State), overMaxLen s.params.maxLen P.length = false →
    ∃ t u v C, exec (.codecEncrypt P) s = .next t ∧ Answered s t (.ok .encrypt C) ∧
      exec (.codecDecrypt C) t = .next u ∧ Answered t u (.ok .decrypt P) ∧
      exec (.codecRun C) t = .next v ∧ Answered t v (.ok .decrypt P)) ∧
  (∀ (P : List Byte) (s : State), overMaxLen s.params.maxLen P.length = false → ¬ magicBytes <+: P →
    ∃ t u C, exec (.codecRun P) s = .next t ∧ Answered s t (.ok .encrypt C) ∧
      exec (.codecRun C) t = .next u ∧ Answered t u (.ok .decrypt P)) ∧
  (∀ (P C : List Byte) (s t : State), magicBytes <+: P → exec (.codecRun P) s = .next t →
    ¬ Answered s t (.ok .encrypt C) ∧ (P.length < 104 → Answered s t (.error .malformedContainer)))

/-- O41. Encrypting adds exactly the 104 header bytes and decrypting takes them off (R115). -/
def Obligations.LengthsArePreserved : Prop :=
  (∀ (P C : List Byte) (s t : State), exec (.codecEncrypt P) s = .next t → Answered s t (.ok .encrypt C) →
    C.length = 104 + P.length) ∧
  (∀ (C P : List Byte) (s t : State), exec (.codecDecrypt C) s = .next t → Answered s t (.ok .decrypt P) →
    104 ≤ C.length ∧ P.length = C.length - 104)

/-- O42. The header Encrypt writes: the magic, the drawn padding, four zero bytes, the all-zero kek (R116). -/
def Obligations.HeaderHasItsShape : Prop :=
  ∀ (P C : List Byte) (s t : State), exec (.codecEncrypt P) s = .next t → Answered s t (.ok .encrypt C) →
    C.take 28 = magicBytes ∧ (C.drop 28).take 48 = s.randomBytes 12 48 ∧
    (C.drop 76).take 4 = [0x00, 0x00, 0x00, 0x00] ∧ (C.drop 80).take 12 = List.replicate 12 0x00

/-- O43. The concrete vector: the ascending key under the all-zero key, in both sampling modes (R117). -/
def Obligations.ConcreteVector : Prop :=
  ∀ (g : Slot) (s : State), overMaxLen s.params.maxLen 12 = false →
    ∃ t, execAll [.ksgInit g (List.replicate 12 0x00),
        .ksgCrypt g [0x00, 0x01, 0x02, 0x03, 0x04, 0x05, 0x06, 0x07, 0x08, 0x09, 0x0A, 0x0B]] s = some t ∧
      (s.params.sampleMode = .post → t.responses = s.responses ++ [.ok .none [],
        .ok .none [0xFD, 0xEF, 0x1A, 0xAE, 0x06, 0x5B, 0x9E, 0x5C, 0x1B, 0x82, 0x01, 0x12]]) ∧
      (s.params.sampleMode = .pre → t.responses = s.responses ++ [.ok .none [],
        .ok .none [0xFE, 0xF6, 0x0E, 0x55, 0x85, 0x2A, 0x4A, 0x2A, 0x81, 0xCC, 0x8F, 0x87]])

/-- O44. A changed payload decrypts without an error, and each flipped bit flips the same bit of the plaintext and
no other (42_codec.md section 4). -/
def Obligations.TamperedBitsFlipAlone : Prop :=
  ∀ (header payload flips : List Byte) (s : State), header.length = 104 → magicBytes <+: header →
    flips.length = payload.length → overMaxLen s.params.maxLen payload.length = false →
    ∃ t t' P, exec (.codecDecrypt (header ++ payload)) s = .next t ∧ Answered s t (.ok .decrypt P) ∧
      exec (.codecDecrypt (header ++ List.zipWith (· ^^^ ·) payload flips)) s = .next t' ∧
      Answered s t' (.ok .decrypt (List.zipWith (· ^^^ ·) P flips))

/-- O45. The padding and the reserved bytes of a container are never read (20_memory.md section 5). -/
def Obligations.FillerIsNeverRead : Prop :=
  ∀ (filler filler' rest : List Byte) (s : State), filler.length = 52 → filler'.length = 52 →
    exec (.codecDecrypt (magicBytes ++ filler ++ rest)) s = exec (.codecDecrypt (magicBytes ++ filler' ++ rest)) s

/-- O46. What the slots held before a CODEC command has no influence on its answer, and after OK nothing of its
generators is left to read (42_codec.md section 4; what unloaded registers hold is free, log entries 1 and 2; equal
`rnd` and `drawn` stand for a random source that gives both the same bytes, log entry 3). -/
def Obligations.CodecIgnoresAndEmptiesTheSlots : Prop :=
  (∀ (i : Instr) (s s' : State), slotOf i = none → s'.params = s.params → s'.rnd = s.rnd → s'.drawn = s.drawn →
    ∃ t t' r, exec i s = .next t ∧ exec i s' = .next t' ∧ Answered s t r ∧ Answered s' t' r) ∧
  (∀ (i : Instr) (s t : State) (info : Info) (out : List Byte), slotOf i = none → exec i s = .next t →
    Answered s t (.ok info out) → ∀ g x, t.reg g x = unloadedRegister t.unloads g x ∧ t.unloads = s.unloads + 1)

/-- O47. Unwrapping by hand with KSG commands gives the key that CODEC.DECRYPT recovers (the stored wrapped key under
the generator of the stored kek, as in O37) and the same plaintext (R121). -/
def Obligations.ManualUnwrapEqualsDecrypt : Prop :=
  ∀ (filler kekField wrapped payload : List Byte) (s : State),
    filler.length = 52 → kekField.length = 12 → wrapped.length = 12 →
    overMaxLen s.params.maxLen 12 = false → overMaxLen s.params.maxLen payload.length = false →
    ∃ t u v key P, execAll [.ksgInit .g0 kekField, .ksgCrypt .g0 wrapped] s = some t ∧
      key = (crypt s.params.sampleMode wrapped (initGen kekField)).1 ∧
      t.responses = s.responses ++ [.ok .none [], .ok .none key] ∧
      execAll [.ksgInit .g1 key, .ksgCrypt .g1 payload] t = some u ∧
      u.responses = t.responses ++ [.ok .none [], .ok .none P] ∧
      exec (.codecDecrypt (magicBytes ++ filler ++ kekField ++ wrapped ++ payload)) s = .next v ∧
      Answered s v (.ok .decrypt P)

/-- O48. The info byte: 0x01 for a CODEC command that encrypted, 0x02 for one that decrypted, 0x00 for every other
command and for every response whose status is not OK (R58). -/
def Obligations.InfoByteReportsTheMode : Prop :=
  (∀ e : Error, ∃ status, Response.bytes (.error e) = [status, 0x00] ∧ status ≠ 0x00) ∧
  ∀ (i : Instr) (s t : State) (r : Response), exec i s = .next t → Answered s t r →
    ∃ status info out, r.bytes = status :: info :: out ∧
      (status ≠ 0x00 → info = 0x00) ∧ (slotOf i ≠ none → info = 0x00) ∧
      (∀ P, i = .codecEncrypt P → status = 0x00 → info = 0x01) ∧
      (∀ C, i = .codecDecrypt C → status = 0x00 → info = 0x02) ∧
      (∀ input, i = .codecRun input → status = 0x00 →
        (magicBytes <+: input → info = 0x02) ∧ (¬ magicBytes <+: input → info = 0x01))

/-! ### The whole machine -/

/-- O49. What an unloaded register holds can never be learnt: two states a host cannot tell apart give the same
answer to every command and states it cannot tell apart (10_state.md section 2; 00_scope.md section 5; equal `rnd` and
`drawn` stand for a random source that gives both the same bytes, log entry 3). -/
def Obligations.UnloadedValuesAreInvisible : Prop :=
  ∀ (i : Instr) (s s' : State), Indistinguishable s s' →
    ∃ t t' r, exec i s = .next t ∧ exec i s' = .next t' ∧ Answered s t r ∧ Answered s' t' r ∧
      Indistinguishable t t'

/-- O50. Every step keeps the two counts: bytes are drawn 60 at a time or not at all, and answered and waiting
frames add up to the same number (20_memory.md section 4, 30_encoding.md section 1). Both rest on the model's taking a
reset between commands only (log entry 8, unsafe in this point: a reset during a command loses drawn bytes and owes no
response), and `drawn` is the model's own counter (log entry 3). -/
def Obligations.StepKeepsTheCounts : Prop :=
  ∀ (n : Nat) (s t : State), WholeDraws s → AnswersAccountedFor n s → step s = .next t →
    WholeDraws t ∧ AnswersAccountedFor n t

/-- O51. Every step keeps unloaded registers unspecified: they hold the free value of the last unloading
(10_state.md section 2; log entries 1 and 2). -/
def Obligations.StepKeepsUnloadedUnspecified : Prop :=
  ∀ (s t : State), UnloadedUnspecified s → step s = .next t → UnloadedUnspecified t

/-- O52. The invariants of O50 and O51 hold after reset (10_state.md section 6; the counters, log entries 2
and 3). -/
def Obligations.InvariantsHoldAtReset : Prop :=
  WholeDraws State.reset ∧ AnswersAccountedFor 0 State.reset ∧ UnloadedUnspecified State.reset

/-- O53. No step changes the parameters, and after reset SAMPLE_MODE is POST (00_scope.md section 4). -/
def Obligations.ParametersNeverChange : Prop :=
  (∀ (s t : State), step s = .next t → t.params = s.params) ∧ State.reset.params.sampleMode = .post

/-- O54. After reset no register is loaded and no command is in progress, so every reading command is refused with
E_UNINIT (10_state.md section 6, 70_reset_and_hazards.md section 2). That KSG.CRYPT is refused so at every length
rests on MAXLEN being unbounded at reset (log entry 6). -/
def Obligations.ResetLeavesNothingReadable : Prop :=
  AllUnloaded State.reset ∧ State.reset.pending = [] ∧ State.reset.responses = [] ∧
  (∀ g x, ∃ t, exec (.lfsrPeek g x) State.reset = .next t ∧ RefusedWith State.reset t .uninit) ∧
  (∀ g x, ∃ t, exec (.lfsrAdvance g x) State.reset = .next t ∧ RefusedWith State.reset t .uninit) ∧
  (∀ g, ∃ t, exec (.ksgNextBit g) State.reset = .next t ∧ RefusedWith State.reset t .uninit) ∧
  (∀ g (n : Byte), n.toNat ≤ 32 →
    ∃ t, exec (.ksgNextBits g n) State.reset = .next t ∧ RefusedWith State.reset t .uninit) ∧
  (∀ g v, ∃ t, exec (.ksgCryptByte g v) State.reset = .next t ∧ RefusedWith State.reset t .uninit) ∧
  (∀ g buf, ∃ t, exec (.ksgCrypt g buf) State.reset = .next t ∧ RefusedWith State.reset t .uninit)
end

