-- ==== Sys2Proof/Laws/State.lean ====
section
/-! SUPPORT. One lemma per field per update of State, and reading back registers and slots, so that no later proof
unfolds a record update. -/

namespace Sys2Proof.Machine

/-! ### Generator registers -/

@[simp] theorem Generator.reg_a (k : Generator) : k.reg .a = k.a := rfl
@[simp] theorem Generator.reg_b (k : Generator) : k.reg .b = k.b := rfl
@[simp] theorem Generator.reg_c (k : Generator) : k.reg .c = k.c := rfl

theorem Generator.ext_reg {k k' : Generator} (h : ∀ x, k.reg x = k'.reg x) : k = k' := by
  have ha : k.a = k'.a := h .a
  have hb : k.b = k'.b := h .b
  have hc : k.c = k'.c := h .c
  cases k
  cases k'
  simp_all

@[simp] theorem Generator.reg_setReg_same (k : Generator) (x : RegName) (r : ClockedRegister) :
    (k.setReg x r).reg x = r := by
  cases x <;> rfl

theorem Generator.reg_setReg_other (k : Generator) {x y : RegName} (r : ClockedRegister) (h : y ≠ x) :
    (k.setReg x r).reg y = k.reg y := by
  cases x <;> cases y <;> first | rfl | exact absurd rfl h

/-! ### setSlot -/

@[simp] theorem State.setSlot_params (s : State) (g : Slot) (k : Generator) : (s.setSlot g k).params = s.params := by
  cases g <;> rfl
@[simp] theorem State.setSlot_pending (s : State) (g : Slot) (k : Generator) : (s.setSlot g k).pending = s.pending := by
  cases g <;> rfl
@[simp] theorem State.setSlot_rnd (s : State) (g : Slot) (k : Generator) : (s.setSlot g k).rnd = s.rnd := by
  cases g <;> rfl
@[simp] theorem State.setSlot_drawn (s : State) (g : Slot) (k : Generator) : (s.setSlot g k).drawn = s.drawn := by
  cases g <;> rfl
@[simp] theorem State.setSlot_unloads (s : State) (g : Slot) (k : Generator) : (s.setSlot g k).unloads = s.unloads := by
  cases g <;> rfl
@[simp] theorem State.setSlot_responses (s : State) (g : Slot) (k : Generator) :
    (s.setSlot g k).responses = s.responses := by
  cases g <;> rfl
@[simp] theorem State.slot_setSlot_same (s : State) (g : Slot) (k : Generator) : (s.setSlot g k).slot g = k := by
  cases g <;> rfl
theorem State.slot_setSlot_other (s : State) {g h : Slot} (k : Generator) (hne : h ≠ g) :
    (s.setSlot g k).slot h = s.slot h := by
  cases g <;> cases h <;> first | rfl | exact absurd rfl hne
@[simp] theorem State.setSlot_slot_self (s : State) (g : Slot) : s.setSlot g (s.slot g) = s := by
  cases g <;> rfl
@[simp] theorem State.setSlot_setSlot (s : State) (g : Slot) (k k' : Generator) :
    (s.setSlot g k).setSlot g k' = s.setSlot g k' := by
  cases g <;> rfl

/-! ### setReg -/

@[simp] theorem State.setReg_params (s : State) (g : Slot) (x : RegName) (r : ClockedRegister) :
    (s.setReg g x r).params = s.params := by
  simp [State.setReg]
@[simp] theorem State.setReg_pending (s : State) (g : Slot) (x : RegName) (r : ClockedRegister) :
    (s.setReg g x r).pending = s.pending := by
  simp [State.setReg]
@[simp] theorem State.setReg_rnd (s : State) (g : Slot) (x : RegName) (r : ClockedRegister) :
    (s.setReg g x r).rnd = s.rnd := by
  simp [State.setReg]
@[simp] theorem State.setReg_drawn (s : State) (g : Slot) (x : RegName) (r : ClockedRegister) :
    (s.setReg g x r).drawn = s.drawn := by
  simp [State.setReg]
@[simp] theorem State.setReg_unloads (s : State) (g : Slot) (x : RegName) (r : ClockedRegister) :
    (s.setReg g x r).unloads = s.unloads := by
  simp [State.setReg]
@[simp] theorem State.setReg_responses (s : State) (g : Slot) (x : RegName) (r : ClockedRegister) :
    (s.setReg g x r).responses = s.responses := by
  simp [State.setReg]
@[simp] theorem State.slot_setReg_same (s : State) (g : Slot) (x : RegName) (r : ClockedRegister) :
    (s.setReg g x r).slot g = (s.slot g).setReg x r := by
  simp [State.setReg]
theorem State.slot_setReg_other (s : State) {g h : Slot} (x : RegName) (r : ClockedRegister) (hne : h ≠ g) :
    (s.setReg g x r).slot h = s.slot h :=
  State.slot_setSlot_other s _ hne
@[simp] theorem State.reg_setReg_same (s : State) (g : Slot) (x : RegName) (r : ClockedRegister) :
    (s.setReg g x r).reg g x = r := by
  simp [State.reg]
theorem State.reg_setReg_other (s : State) {g h : Slot} {x y : RegName} (r : ClockedRegister)
    (hne : (h, y) ≠ (g, x)) : (s.setReg g x r).reg h y = s.reg h y := by
  by_cases hg : h = g
  · subst hg
    have hy : y ≠ x := fun e => hne (by rw [e])
    simp [State.reg, Generator.reg_setReg_other _ _ hy]
  · simp [State.reg, State.slot_setReg_other s x r hg]

/-! ### respond, respondOk, refuse -/

@[simp] theorem State.respond_g0 (s : State) (r : Response) : (s.respond r).g0 = s.g0 := rfl
@[simp] theorem State.respond_g1 (s : State) (r : Response) : (s.respond r).g1 = s.g1 := rfl
@[simp] theorem State.respond_params (s : State) (r : Response) : (s.respond r).params = s.params := rfl
@[simp] theorem State.respond_pending (s : State) (r : Response) : (s.respond r).pending = s.pending := rfl
@[simp] theorem State.respond_rnd (s : State) (r : Response) : (s.respond r).rnd = s.rnd := rfl
@[simp] theorem State.respond_drawn (s : State) (r : Response) : (s.respond r).drawn = s.drawn := rfl
@[simp] theorem State.respond_unloads (s : State) (r : Response) : (s.respond r).unloads = s.unloads := rfl
@[simp] theorem State.respond_responses (s : State) (r : Response) :
    (s.respond r).responses = s.responses ++ [r] := rfl
@[simp] theorem State.respond_slot (s : State) (r : Response) (g : Slot) : (s.respond r).slot g = s.slot g := by
  cases g <;> rfl
@[simp] theorem State.respond_reg (s : State) (r : Response) (g : Slot) (x : RegName) :
    (s.respond r).reg g x = s.reg g x := by
  simp [State.reg]

theorem State.respondOk_eq (s : State) (out : List Byte) : s.respondOk out = s.respond (.ok .none out) := rfl
theorem State.refuse_eq (s : State) (e : Error) : s.refuse e = s.respond (.error e) := rfl

/-! ### unloadAll -/

@[simp] theorem State.unloadAll_params (s : State) : s.unloadAll.params = s.params := rfl
@[simp] theorem State.unloadAll_pending (s : State) : s.unloadAll.pending = s.pending := rfl
@[simp] theorem State.unloadAll_rnd (s : State) : s.unloadAll.rnd = s.rnd := rfl
@[simp] theorem State.unloadAll_drawn (s : State) : s.unloadAll.drawn = s.drawn := rfl
@[simp] theorem State.unloadAll_unloads (s : State) : s.unloadAll.unloads = s.unloads + 1 := rfl
@[simp] theorem State.unloadAll_responses (s : State) : s.unloadAll.responses = s.responses := rfl
@[simp] theorem State.unloadAll_slot (s : State) (g : Slot) :
    s.unloadAll.slot g = unloadedGenerator (s.unloads + 1) g := by
  cases g <;> rfl
@[simp] theorem unloadedGenerator_reg (n : Nat) (g : Slot) (x : RegName) :
    (unloadedGenerator n g).reg x = unloadedRegister n g x := by
  cases x <;> rfl
@[simp] theorem State.unloadAll_reg (s : State) (g : Slot) (x : RegName) :
    s.unloadAll.reg g x = unloadedRegister (s.unloads + 1) g x := by
  simp [State.reg]

/-- Clearing the flags after writing a slot leaves no trace of what was written. -/
@[simp] theorem State.setSlot_unloadAll (s : State) (g : Slot) (k : Generator) :
    (s.setSlot g k).unloadAll = s.unloadAll := by
  cases g <;> rfl

/-! ### offerFrame -/

@[simp] theorem State.offerFrame_pending (s : State) (F : List Byte) :
    (s.offerFrame F).pending = .frame F :: s.pending := rfl
@[simp] theorem State.offerFrame_slot (s : State) (F : List Byte) (g : Slot) : (s.offerFrame F).slot g = s.slot g := by
  cases g <;> rfl

end Sys2Proof.Machine
end

