-- ==== Sys2Proof/Laws/Ops.lean ====
section
/-! SUPPORT. One lemma per shared operation that says what it can do: Peek, Advance, NextBit, NextBits, CryptByte,
Crypt, draw, Decrypt and Encrypt. -/

namespace Sys2Proof.Machine

/-! ### The ClockedRegister -/

@[simp] theorem advance_fst (x : RegName) (r : ClockedRegister) : (advance x r).1 = peek r := by
  unfold advance clock peek
  split <;> simp_all

@[simp] theorem advance_loaded (x : RegName) (r : ClockedRegister) : (advance x r).2.loaded = r.loaded := by
  unfold advance clock
  split <;> rfl

theorem advance_value_of_low (x : RegName) (r : ClockedRegister) (h : r.value.getLsbD 0 = true) :
    (advance x r).2.value = ((r.value ^^^ maskOf x) >>> 1) ||| nrotOf x := by
  unfold advance clock
  rw [h]
  rfl

theorem advance_value_of_not_low (x : RegName) (r : ClockedRegister) (h : r.value.getLsbD 0 = false) :
    (advance x r).2.value = (r.value >>> 1) &&& rotOf x := by
  unfold advance clock
  rw [h]
  rfl

/-! ### The KeystreamGenerator -/

@[simp] theorem initGen_reg (key : List Byte) (x : RegName) : (initGen key).reg x = initReg key x := by
  cases x <;> rfl

theorem initGen_loaded (key : List Byte) : (initGen key).loaded = true := rfl

/-- A round in which A took feedback: B is clocked, C is not. -/
theorem nextBit_of_took (m : SampleMode) (k : Generator) (h : peek k.a = true) :
    nextBit m k = (freshBit m (advance .b k.b) ^^ peek k.c,
      { a := (advance .a k.a).2, b := (advance .b k.b).2, c := k.c }) := by
  simp [nextBit, h]

/-- A round in which A did not take feedback: C is clocked, B is not. -/
theorem nextBit_of_not_took (m : SampleMode) (k : Generator) (h : peek k.a = false) :
    nextBit m k = (peek k.b ^^ freshBit m (advance .c k.c),
      { a := (advance .a k.a).2, b := k.b, c := (advance .c k.c).2 }) := by
  simp [nextBit, h]

/-- The registers after a round do not depend on SAMPLE_MODE. -/
theorem nextBit_snd_mode (m m' : SampleMode) (k : Generator) : (nextBit m k).2 = (nextBit m' k).2 := by
  cases h : peek k.a
  · simp [nextBit_of_not_took, h]
  · simp [nextBit_of_took, h]

@[simp] theorem nextBit_reg_loaded (m : SampleMode) (k : Generator) (x : RegName) :
    ((nextBit m k).2.reg x).loaded = (k.reg x).loaded := by
  cases h : peek k.a
  · rw [nextBit_of_not_took m k h]
    cases x <;> simp
  · rw [nextBit_of_took m k h]
    cases x <;> simp

theorem nextBitsLoop_zero (m : SampleMode) (acc : Word) (k : Generator) : nextBitsLoop m 0 acc k = (acc, k) := rfl

theorem nextBitsLoop_succ (m : SampleMode) (n : Nat) (acc : Word) (k : Generator) :
    nextBitsLoop m (n + 1) acc k =
      nextBitsLoop m n ((acc <<< 1) ||| (BitVec.ofBool (nextBit m k).1).setWidth 32) (nextBit m k).2 := rfl

/-- The generator after the loop does not depend on the accumulator. -/
theorem nextBitsLoop_snd (m : SampleMode) (n : Nat) (acc acc' : Word) (k : Generator) :
    (nextBitsLoop m n acc k).2 = (nextBitsLoop m n acc' k).2 := by
  induction n generalizing acc acc' k with
  | zero => rfl
  | succ n ih => rw [nextBitsLoop_succ, nextBitsLoop_succ]; exact ih ..

@[simp] theorem nextBitsLoop_reg_loaded (m : SampleMode) (n : Nat) (acc : Word) (k : Generator) (x : RegName) :
    ((nextBitsLoop m n acc k).2.reg x).loaded = (k.reg x).loaded := by
  induction n generalizing acc k with
  | zero => rfl
  | succ n ih => rw [nextBitsLoop_succ, ih]; simp

@[simp] theorem nextBits_reg_loaded (m : SampleMode) (n : Nat) (k : Generator) (x : RegName) :
    ((nextBits m n k).2.reg x).loaded = (k.reg x).loaded := by
  simp [nextBits]

theorem cryptByte_eq (m : SampleMode) (v : Byte) (k : Generator) :
    cryptByte m v k = (v ^^^ (nextBits m byteBits k).1.setWidth 8, (nextBits m byteBits k).2) := rfl

@[simp] theorem crypt_nil (m : SampleMode) (k : Generator) : crypt m [] k = ([], k) := rfl

theorem crypt_cons (m : SampleMode) (v : Byte) (rest : List Byte) (k : Generator) :
    crypt m (v :: rest) k =
      ((cryptByte m v k).1 :: (crypt m rest (cryptByte m v k).2).1, (crypt m rest (cryptByte m v k).2).2) := rfl

@[simp] theorem crypt_length (m : SampleMode) (buf : List Byte) (k : Generator) :
    (crypt m buf k).1.length = buf.length := by
  induction buf generalizing k with
  | nil => rfl
  | cons v rest ih => simp [crypt_cons, ih]

@[simp] theorem crypt_reg_loaded (m : SampleMode) (buf : List Byte) (k : Generator) (x : RegName) :
    ((crypt m buf k).2.reg x).loaded = (k.reg x).loaded := by
  induction buf generalizing k with
  | nil => rfl
  | cons v rest ih => simp [crypt_cons, ih, cryptByte_eq]

/-! ### The same on a slot -/

theorem State.advanceReg_eq (s : State) (g : Slot) (x : RegName) :
    s.advanceReg g x = (peek (s.reg g x), s.setReg g x (advance x (s.reg g x)).2) := by
  simp [State.advanceReg]

theorem State.nextBit_eq (s : State) (g : Slot) :
    s.nextBit g = ((Machine.nextBit s.params.sampleMode (s.slot g)).1,
      s.setSlot g (Machine.nextBit s.params.sampleMode (s.slot g)).2) := rfl

theorem State.nextBits_eq (s : State) (g : Slot) (n : Nat) :
    s.nextBits g n = ((Machine.nextBits s.params.sampleMode n (s.slot g)).1,
      s.setSlot g (Machine.nextBits s.params.sampleMode n (s.slot g)).2) := rfl

theorem State.cryptByte_eq (s : State) (g : Slot) (v : Byte) :
    s.cryptByte g v = ((Machine.cryptByte s.params.sampleMode v (s.slot g)).1,
      s.setSlot g (Machine.cryptByte s.params.sampleMode v (s.slot g)).2) := rfl

theorem State.crypt_eq (s : State) (g : Slot) (buf : List Byte) :
    s.crypt g buf = ((Machine.crypt s.params.sampleMode buf (s.slot g)).1,
      s.setSlot g (Machine.crypt s.params.sampleMode buf (s.slot g)).2) := rfl

theorem State.initSlot_eq (s : State) (g : Slot) (key : List Byte) : s.initSlot g key = s.setSlot g (initGen key) := rfl

/-! ### The random source -/

/-- The bytes that `n` draws give, read off the state (R38). -/
theorem State.draw_snd (n : Nat) (s : State) :
    (s.draw n).2 = { s with rnd := s.rnd.drop n, drawn := s.drawn + n } := by
  induction n generalizing s with
  | zero => rfl
  | succ n ih =>
    show (State.draw n s.drawByte.2).2 = _
    rw [ih]
    cases h : s.rnd with
    | nil => simp [State.drawByte, h]; omega
    | cons v rest => simp [State.drawByte, h]; omega

@[simp] theorem State.draw_length (n : Nat) (s : State) : (s.draw n).1.length = n := by
  induction n generalizing s with
  | zero => rfl
  | succ n ih =>
    show (s.drawByte.1 :: (State.draw n s.drawByte.2).1).length = _
    simp [ih]

/-! ### The container procedures -/

/-- Decrypt after its guards, as a function of the input alone (R112). -/
def plaintextOf (m : SampleMode) (input : List Byte) : List Byte :=
  (crypt m (input.drop hdrLen) (initGen (crypt m (slice input 92 104) (initGen (slice input 80 92))).1)).1

/-- Encrypt's result as a function of the drawn bytes and the input alone (R113). -/
def containerOf (m : SampleMode) (key pad input : List Byte) : List Byte :=
  containerHeader pad (crypt m key (initGen kek)).1 ++ (crypt m input (initGen key)).1

theorem State.decryptContainer_eq (s : State) (input : List Byte) :
    s.decryptContainer input = (plaintextOf s.params.sampleMode input, s.unloadAll) := by
  simp [State.decryptContainer, State.crypt_eq, State.initSlot_eq, plaintextOf]

theorem State.encryptPayload_eq (s : State) (input : List Byte) :
    s.encryptPayload input =
      (containerOf s.params.sampleMode (s.draw keyLen).1 ((s.draw keyLen).2.draw padLen).1 input,
        ((s.draw keyLen).2.draw padLen).2.unloadAll) := by
  simp [State.encryptPayload, State.crypt_eq, State.initSlot_eq, containerOf, State.draw_snd]

/-- Everything Decrypt can do (R112): one of three refusals, or the plaintext and six cleared flags. -/
theorem State.decryptCommand_cases (s : State) (input : List Byte) :
    s.decryptCommand input = s.refuse .notContainer ∨
    s.decryptCommand input = s.refuse .malformedContainer ∨
    s.decryptCommand input = s.refuse .length ∨
    s.decryptCommand input = s.unloadAll.respond (.ok .decrypt (plaintextOf s.params.sampleMode input)) := by
  unfold State.decryptCommand
  split
  · split
    · exact .inr (.inl rfl)
    · split
      · exact .inr (.inr (.inl rfl))
      · exact .inr (.inr (.inr (by rw [State.decryptContainer_eq])))
  · exact .inl rfl

/-- Everything Encrypt can do (R113): one refusal, or the container, 60 bytes drawn and six cleared flags. -/
theorem State.encryptCommand_cases (s : State) (input : List Byte) :
    s.encryptCommand input = s.refuse .length ∨
    s.encryptCommand input = ((s.draw keyLen).2.draw padLen).2.unloadAll.respond
      (.ok .encrypt (containerOf s.params.sampleMode (s.draw keyLen).1 ((s.draw keyLen).2.draw padLen).1 input)) := by
  unfold State.encryptCommand
  split
  · exact .inl rfl
  · exact .inr (by rw [State.encryptPayload_eq])

end Sys2Proof.Machine
end

