-- ==== Sys2Proof/Laws/Commands.lean ====
section
/-! SUPPORT. What executing a command can do, said once: `exec_shape` lists every form the next state can have. -/

namespace Sys2Proof.Machine

/-- The state in which Encrypt ends, its response apart: 60 bytes drawn and six cleared flags (R113). -/
def State.afterDraws (s : State) : State :=
  ((s.draw keyLen).2.draw padLen).2.unloadAll

theorem State.afterDraws_eq (s : State) :
    s.afterDraws = { s.unloadAll with rnd := s.rnd.drop 60, drawn := s.drawn + 60 } := by
  simp [State.afterDraws, State.draw_snd, State.unloadAll, keyLen, padLen]

/-- Every form a command's next state can have: a refusal; an LFSR or KSG command that wrote its own slot at most;
a Decrypt that ended with OK; an Encrypt that ended with OK. -/
theorem exec_shape (i : Instr) (s : State) :
    (∃ e, exec i s = .next (s.refuse e)) ∨
    (∃ g k out, slotOf i = some g ∧ exec i s = .next ((s.setSlot g k).respondOk out)) ∨
    (∃ P, slotOf i = none ∧ exec i s = .next (s.unloadAll.respond (.ok .decrypt P))) ∨
    (∃ C, slotOf i = none ∧ exec i s = .next (s.afterDraws.respond (.ok .encrypt C))) := by
  have dec : ∀ input, (∃ e, s.decryptCommand input = s.refuse e) ∨
      ∃ P, s.decryptCommand input = s.unloadAll.respond (.ok .decrypt P) := by
    intro input
    rcases s.decryptCommand_cases input with h | h | h | h
    · exact .inl ⟨_, h⟩
    · exact .inl ⟨_, h⟩
    · exact .inl ⟨_, h⟩
    · exact .inr ⟨_, h⟩
  have enc : ∀ input, (∃ e, s.encryptCommand input = s.refuse e) ∨
      ∃ C, s.encryptCommand input = s.afterDraws.respond (.ok .encrypt C) := by
    intro input
    rcases s.encryptCommand_cases input with h | h
    · exact .inl ⟨_, h⟩
    · exact .inr ⟨_, h⟩
  cases i with
  | lfsrLoad g x seed => exact .inr (.inl ⟨g, _, _, rfl, rfl⟩)
  | lfsrPeek g x =>
    simp only [exec, execLfsrPeek]
    split
    · exact .inr (.inl ⟨g, s.slot g, _, rfl, by rw [State.setSlot_slot_self]⟩)
    · exact .inl ⟨_, rfl⟩
  | lfsrAdvance g x =>
    simp only [exec, execLfsrAdvance]
    split
    · exact .inr (.inl ⟨g, _, _, rfl, rfl⟩)
    · exact .inl ⟨_, rfl⟩
  | ksgInit g key =>
    simp only [exec, execKsgInit]
    split
    · exact .inr (.inl ⟨g, _, _, rfl, rfl⟩)
    · exact .inl ⟨_, rfl⟩
  | ksgNextBit g =>
    simp only [exec, execKsgNextBit]
    split
    · exact .inr (.inl ⟨g, _, _, rfl, rfl⟩)
    · exact .inl ⟨_, rfl⟩
  | ksgNextBits g n =>
    simp only [exec, execKsgNextBits]
    split
    · split
      · exact .inr (.inl ⟨g, _, _, rfl, rfl⟩)
      · exact .inl ⟨_, rfl⟩
    · exact .inl ⟨_, rfl⟩
  | ksgCryptByte g v =>
    simp only [exec, execKsgCryptByte]
    split
    · exact .inr (.inl ⟨g, _, _, rfl, rfl⟩)
    · exact .inl ⟨_, rfl⟩
  | ksgCrypt g buf =>
    simp only [exec, execKsgCrypt]
    split
    · exact .inl ⟨_, rfl⟩
    · split
      · exact .inr (.inl ⟨g, _, _, rfl, rfl⟩)
      · exact .inl ⟨_, rfl⟩
  | codecRun input =>
    simp only [exec, execCodecRun]
    split
    · rcases dec input with ⟨e, h⟩ | ⟨P, h⟩
      · exact .inl ⟨e, by rw [h]⟩
      · exact .inr (.inr (.inl ⟨P, rfl, by rw [h]⟩))
    · rcases enc input with ⟨e, h⟩ | ⟨C, h⟩
      · exact .inl ⟨e, by rw [h]⟩
      · exact .inr (.inr (.inr ⟨C, rfl, by rw [h]⟩))
  | codecDecrypt input =>
    simp only [exec, execCodecDecrypt]
    rcases dec input with ⟨e, h⟩ | ⟨P, h⟩
    · exact .inl ⟨e, by rw [h]⟩
    · exact .inr (.inr (.inl ⟨P, rfl, by rw [h]⟩))
  | codecEncrypt input =>
    simp only [exec, execCodecEncrypt]
    rcases enc input with ⟨e, h⟩ | ⟨C, h⟩
    · exact .inl ⟨e, by rw [h]⟩
    · exact .inr (.inr (.inr ⟨C, rfl, by rw [h]⟩))

end Sys2Proof.Machine
end

