-- ==== Sys2Proof/Laws/PerInstr.lean ====
section
/-! SUPPORT. Facts said of every command as syntax, one lemma per constructor: `FrameShape`, the opcode and the
length of a command's frame (R52 to R54, R61). -/

namespace Sys2Proof.Laws.FrameShape

/-- A command's frame begins with the opcode of its row, and a well-formed command's frame is at least as long as
the shortest frame of that opcode. -/
def Statement (i : Instr) : Prop :=
  (encode i).head? = some (opcodeByte (opcodeOfInstr i)) ∧
    (i.wellFormed = true → minFrameLen (opcodeOfInstr i) ≤ (encode i).length)

theorem lfsrLoad (g : Slot) (x : RegName) (seed : Word) : Statement (.lfsrLoad g x seed) :=
  ⟨rfl, fun _ => by simp [encode, encodeOperands, opcodeOfInstr, minFrameLen, Machine.bytesLe32]⟩

theorem lfsrPeek (g : Slot) (x : RegName) : Statement (.lfsrPeek g x) :=
  ⟨rfl, fun _ => by simp [encode, encodeOperands, opcodeOfInstr, minFrameLen]⟩

theorem lfsrAdvance (g : Slot) (x : RegName) : Statement (.lfsrAdvance g x) :=
  ⟨rfl, fun _ => by simp [encode, encodeOperands, opcodeOfInstr, minFrameLen]⟩

theorem ksgInit (g : Slot) (key : List Byte) : Statement (.ksgInit g key) := by
  refine ⟨rfl, fun h => ?_⟩
  have hlen : key.length = 12 := by simpa [Instr.wellFormed, Machine.keyLen] using h
  simp [encode, encodeOperands, opcodeOfInstr, minFrameLen, hlen]

theorem ksgNextBit (g : Slot) : Statement (.ksgNextBit g) :=
  ⟨rfl, fun _ => by simp [encode, encodeOperands, opcodeOfInstr, minFrameLen]⟩

theorem ksgNextBits (g : Slot) (n : Byte) : Statement (.ksgNextBits g n) :=
  ⟨rfl, fun _ => by simp [encode, encodeOperands, opcodeOfInstr, minFrameLen]⟩

theorem ksgCryptByte (g : Slot) (v : Byte) : Statement (.ksgCryptByte g v) :=
  ⟨rfl, fun _ => by simp [encode, encodeOperands, opcodeOfInstr, minFrameLen]⟩

theorem ksgCrypt (g : Slot) (buf : List Byte) : Statement (.ksgCrypt g buf) :=
  ⟨rfl, fun _ => by simp [encode, encodeOperands, opcodeOfInstr, minFrameLen]⟩

theorem codecRun (input : List Byte) : Statement (.codecRun input) :=
  ⟨rfl, fun _ => by simp [encode, encodeOperands, opcodeOfInstr, minFrameLen]⟩

theorem codecDecrypt (input : List Byte) : Statement (.codecDecrypt input) :=
  ⟨rfl, fun _ => by simp [encode, encodeOperands, opcodeOfInstr, minFrameLen]⟩

theorem codecEncrypt (input : List Byte) : Statement (.codecEncrypt input) :=
  ⟨rfl, fun _ => by simp [encode, encodeOperands, opcodeOfInstr, minFrameLen]⟩

end Sys2Proof.Laws.FrameShape
end

