-- ==== Sys2Proof/Tests/Slice0.lean ====
section
/-! SUPPORT. Tests: the expected results are those of spec/95_test_vectors.md (named V, E and P there) or are read off
the rules named beside them. Then one witness for the hypotheses of each statement that has some. -/

namespace Sys2Proof.Tests

open Sys2Proof.Machine

/-! ### Helpers -/

/-- The state after one step that takes the given frame first. -/
def after (F : List Byte) (s : State) : State :=
  match step (s.offerFrame F) with
  | .next t => t
  | .fault _ => s
  | .refused _ => s

/-- The bytes of the last response of a state. -/
def lastAnswer (s : State) : List Byte :=
  match s.responses.getLast? with
  | some r => r.bytes
  | none => []

/-- What the host is answered to one frame. -/
def answer (F : List Byte) (s : State) : List Byte :=
  lastAnswer (after F s)

/-- The three values of a slot, or nothing when one of them is not loaded. -/
def valuesOf (s : State) (g : Slot) : Option (Word × Word × Word) :=
  if s.slotLoaded g then
    some ((s.reg g .a).value, (s.reg g .b).value, (s.reg g .c).value)
  else
    none

/-- The six loaded flags. -/
def flagsOf (s : State) : List Bool :=
  [s.g0.a.loaded, s.g0.b.loaded, s.g0.c.loaded, s.g1.a.loaded, s.g1.b.loaded, s.g1.c.loaded]

/-- Reset with one slot loaded with three given words. -/
def loadedWith (g : Slot) (a b c : Word) : State :=
  State.reset.setSlot g { a := ⟨a, true⟩, b := ⟨b, true⟩, c := ⟨c, true⟩ }

/-- The start of V20: slot 0 as the all-zero key leaves it. -/
def zeroKeyState : State :=
  loadedWith .g0 0x13579BDF 0x2468ACE0 0xFDB97531

/-- The start of V22: slot 0 as the ascending key leaves it. -/
def ascendingState : State :=
  loadedWith .g0 0x03020100 0x07060504 0x0B0A0908

/-- The same state with a bound on payloads. -/
def bounded (m : Nat) (s : State) : State :=
  { s with params := { s.params with maxLen := some m } }

/-- The same state under the alternative sampling mode. -/
def underPre (s : State) : State :=
  { s with params := { s.params with sampleMode := .pre } }

/-- The ascending key of V11. -/
def ascendingKey : List Byte :=
  [0x00, 0x01, 0x02, 0x03, 0x04, 0x05, 0x06, 0x07, 0x08, 0x09, 0x0A, 0x0B]

/-- Reset with the 60 random bytes of V44 supplied: the ascending key, then 48 zero bytes. -/
def withDraws : State :=
  { State.reset with rnd := ascendingKey ++ List.replicate 48 0x00 }

/-- "Hello, world!" -/
def hello : List Byte :=
  [0x48, 0x65, 0x6C, 0x6C, 0x6F, 0x2C, 0x20, 0x77, 0x6F, 0x72, 0x6C, 0x64, 0x21]

/-- The header of V42: its kek field is not zero and its filler is. -/
def header42 : List Byte :=
  magicBytes ++ List.replicate 52 0x00 ++
    [0x01, 0x00, 0x00, 0x00, 0x00, 0x00, 0x00, 0x00, 0x00, 0x00, 0x00, 0x00] ++
    [0x5A, 0x34, 0x55, 0xF0, 0xDF, 0x46, 0xD0, 0xA1, 0x56, 0x1D, 0x07, 0x14]

/-- The container of V42. -/
def container42 : List Byte :=
  header42 ++ [0xFC, 0x0F, 0x3C, 0x2B]

/-- The container of V44. -/
def container44 : List Byte :=
  magicBytes ++ List.replicate 48 0x00 ++ List.replicate 4 0x00 ++ List.replicate 12 0x00 ++
    [0xFD, 0xEF, 0x1A, 0xAE, 0x06, 0x5B, 0x9E, 0x5C, 0x1B, 0x82, 0x01, 0x12] ++ [0x7F, 0x03]

/-! ### Ill-formed commands -/

/-- KEYLEN is 12 (R53): a key of 11 or 13 bytes is refused. -/
theorem test_key_length_is_checked :
    (Instr.ksgInit .g0 (List.replicate 11 0x00)).wellFormed = false ∧
    (Instr.ksgInit .g0 (List.replicate 13 0x00)).wellFormed = false ∧
    (Instr.ksgInit .g0 (List.replicate 12 0x00)).wellFormed = true := by decide

/-- NMAX is 32 (R60): a count of 33 is refused. -/
theorem test_count_is_checked :
    (Instr.ksgNextBits .g0 33).wellFormed = false ∧ (Instr.ksgNextBits .g0 32).wellFormed = true := by decide

/-! ### Decoding, each frame written out from R52 to R61 -/

/-- `01 sel seed`: 0xDF is the low byte of the seed. -/
theorem test_decode_lfsr_load :
    decode [0x01, 0x00, 0xDF, 0x9B, 0x57, 0x13] = .ok (.lfsrLoad .g0 .a 0x13579BDF) ∧
    decode [0x01, 0x05, 0x00, 0x00, 0x00, 0x80] = .ok (.lfsrLoad .g1 .b 0x80000000) := by decide

/-- `02 sel`: the six selectors of R55. -/
theorem test_decode_lfsr_peek_selectors :
    decode [0x02, 0x00] = .ok (.lfsrPeek .g0 .a) ∧ decode [0x02, 0x01] = .ok (.lfsrPeek .g0 .b) ∧
    decode [0x02, 0x02] = .ok (.lfsrPeek .g0 .c) ∧ decode [0x02, 0x04] = .ok (.lfsrPeek .g1 .a) ∧
    decode [0x02, 0x05] = .ok (.lfsrPeek .g1 .b) ∧ decode [0x02, 0x06] = .ok (.lfsrPeek .g1 .c) := by decide

/-- `03 sel`. -/
theorem test_decode_lfsr_advance : decode [0x03, 0x06] = .ok (.lfsrAdvance .g1 .c) := by decide

/-- `10 g key`. -/
theorem test_decode_ksg_init :
    decode [0x10, 0x01, 0xAA, 0xBB, 0xCC, 0xDD, 0x00, 0x00, 0x00, 0x00, 0x11, 0x22, 0x33, 0x44] =
      .ok (.ksgInit .g1 [0xAA, 0xBB, 0xCC, 0xDD, 0x00, 0x00, 0x00, 0x00, 0x11, 0x22, 0x33, 0x44]) := by decide

/-- `11 g`. -/
theorem test_decode_ksg_nextbit : decode [0x11, 0x01] = .ok (.ksgNextBit .g1) := by decide

/-- `12 g n`, and the pseudo-command KSG.NEXTBYTE of R66. -/
theorem test_decode_ksg_nextbits :
    decode [0x12, 0x00, 0x20] = .ok (.ksgNextBits .g0 32) ∧ decode [0x12, 0x01, 0x08] = .ok (ksgNextByte .g1) := by
  decide

/-- `13 g v`. -/
theorem test_decode_ksg_cryptbyte : decode [0x13, 0x00, 0xFF] = .ok (.ksgCryptByte .g0 0xFF) := by decide

/-- `14 g buf`, with an empty buffer, and the pseudo-command KSG.KEYSTREAM of R66. -/
theorem test_decode_ksg_crypt :
    decode [0x14, 0x01, 0xFC, 0x0F] = .ok (.ksgCrypt .g1 [0xFC, 0x0F]) ∧
    decode [0x14, 0x00] = .ok (.ksgCrypt .g0 []) ∧
    decode [0x14, 0x00, 0x00, 0x00, 0x00] = .ok (ksgKeystream .g0 3) := by decide

/-- `20 input`, `21 input`, `22 input`; the input may be empty. -/
theorem test_decode_codec :
    decode [0x20, 0x41, 0x42] = .ok (.codecRun [0x41, 0x42]) ∧ decode [0x21, 0x41] = .ok (.codecDecrypt [0x41]) ∧
    decode [0x22] = .ok (.codecEncrypt []) := by decide

/-- E1 to E4: the opcode is checked first. -/
theorem test_decode_illegal_command :
    decode [] = .error .illegalCmd ∧ decode [0xFF] = .error .illegalCmd ∧ decode [0x00] = .error .illegalCmd ∧
    decode [0x04, 0x00] = .error .illegalCmd := by decide

/-- E5 to E8: then the length. -/
theorem test_decode_bad_length :
    decode [0x10, 0x00, 0x00] = .error .frame ∧ decode [0x12, 0x07] = .error .frame ∧
    decode [0x14] = .error .frame ∧ decode [0x01, 0x00, 0xDF, 0x9B, 0x57] = .error .frame := by decide

/-- E9 to E15: then the operands. -/
theorem test_decode_bad_operand :
    decode [0x12, 0x02, 0x08] = .error .operand ∧ decode [0x12, 0x07, 0x40] = .error .operand ∧
    decode [0x12, 0x00, 0x40] = .error .operand ∧ decode [0x12, 0x00, 0x21] = .error .operand ∧
    decode [0x02, 0x03] = .error .operand ∧ decode [0x02, 0x08] = .error .operand ∧
    decode [0x01, 0x03, 0xDF, 0x9B, 0x57, 0x13] = .error .operand := by decide

/-- An opcode-table word is padded with zero operand bytes to its opcode's shortest frame. -/
theorem test_decode_table_word :
    decodeTableWord 8 0x22 = some (.codecEncrypt []) ∧ decodeTableWord 16 0x0003 = some (.lfsrAdvance .g0 .a) ∧
    decodeTableWord 16 0x0110 = some (.ksgInit .g1 (List.replicate 12 0x00)) := by decide

/-! ### Constants -/

/-- The complements R15 writes out, and the length of the signature (R16, S2). -/
theorem test_constants :
    nrotOf .a = 0x80000000 ∧ nrotOf .b = 0xC0000000 ∧ nrotOf .c = 0xF0000000 ∧ magic.length = 28 ∧
    magic = magicBytes := by decide

/-! ### One step of each command -/

/-- V3 row 2: LFSR.LOAD. -/
theorem test_lfsr_load :
    answer [0x01, 0x00, 0xDF, 0x9B, 0x57, 0x13] State.reset = [0x00, 0x00] ∧
    ((after [0x01, 0x00, 0xDF, 0x9B, 0x57, 0x13] State.reset).reg .g0 .a) = ⟨0x13579BDF, true⟩ ∧
    flagsOf (after [0x01, 0x00, 0xDF, 0x9B, 0x57, 0x13] State.reset) = [true, false, false, false, false, false] := by
  decide

/-- V3 row 7: a zero seed is not replaced. -/
theorem test_lfsr_load_zero :
    ((after [0x01, 0x06, 0x00, 0x00, 0x00, 0x00] State.reset).reg .g1 .c) = ⟨0x00000000, true⟩ := by decide

/-- V3 rows 1 and 3: LFSR.PEEK. -/
theorem test_lfsr_peek :
    answer [0x02, 0x00] State.reset = [0x05, 0x00] ∧ answer [0x02, 0x00] zeroKeyState = [0x00, 0x00, 0x01] ∧
    valuesOf (after [0x02, 0x00] zeroKeyState) .g0 = some (0x13579BDF, 0x2468ACE0, 0xFDB97531) := by decide

/-- V1: single clocks on both branches, the forced high bits among them. -/
theorem test_lfsr_advance_values :
    (advance .a ⟨0xFFFFFFFF, true⟩).2.value = 0xBFFFFFCE ∧ (advance .a ⟨0xFFFFFFFE, true⟩).2.value = 0x7FFFFFFF ∧
    (advance .a ⟨0x80000063, true⟩).2.value = 0x80000000 ∧ (advance .b ⟨0x00000001, true⟩).2.value = 0xE0000010 ∧
    (advance .b ⟨0xC0000000, true⟩).2.value = 0x20000000 ∧ (advance .b ⟨0x80000000, true⟩).2.value = 0 ∧
    (advance .c ⟨0x00000003, true⟩).2.value = 0xF8000000 ∧ (advance .c ⟨0xF0000000, true⟩).2.value = 0x08000000 ∧
    (advance .c ⟨0xE0000000, true⟩).2.value = 0 ∧ (advance .c ⟨0x10000003, true⟩).2.value = 0xF0000000 := by decide

/-- V3 row 5: LFSR.ADVANCE writes one register and answers the bit it found. -/
theorem test_lfsr_advance :
    answer [0x03, 0x00] zeroKeyState = [0x00, 0x00, 0x01] ∧
    valuesOf (after [0x03, 0x00] zeroKeyState) .g0 = some (0xC9ABCDDE, 0x2468ACE0, 0xFDB97531) := by decide

/-- V12: KSG.INIT takes little-endian words and replaces a zero word, and only that. -/
theorem test_ksg_init :
    valuesOf (after [0x10, 0x01, 0xAA, 0xBB, 0xCC, 0xDD, 0x00, 0x00, 0x00, 0x00, 0x11, 0x22, 0x33, 0x44] State.reset) .g1 =
      some (0xDDCCBBAA, 0x2468ACE0, 0x44332211) ∧
    answer [0x10, 0x01, 0xAA, 0xBB, 0xCC, 0xDD, 0x00, 0x00, 0x00, 0x00, 0x11, 0x22, 0x33, 0x44] State.reset =
      [0x00, 0x00] := by decide

/-- V10: the all-zero key gives the three default seeds. -/
theorem test_ksg_init_zero :
    valuesOf (after (0x10 :: 0x00 :: List.replicate 12 0x00) State.reset) .g0 =
      some (0x13579BDF, 0x2468ACE0, 0xFDB97531) := by decide

/-- V20a round 0, where B is clocked: KSG.NEXTBIT. -/
theorem test_ksg_nextbit_clocks_b :
    answer [0x11, 0x00] zeroKeyState = [0x00, 0x00, 0x01] ∧
    valuesOf (after [0x11, 0x00] zeroKeyState) .g0 = some (0xC9ABCDDE, 0x12345670, 0xFDB97531) := by decide

/-- V20a round 6, where C is clocked and POST and PRE differ. -/
theorem test_ksg_nextbit_clocks_c :
    answer [0x11, 0x00] (loadedWith .g0 0x7E4D5E70 0x048D159C 0xF1B72EA7) = [0x00, 0x00, 0x00] ∧
    answer [0x11, 0x00] (underPre (loadedWith .g0 0x7E4D5E70 0x048D159C 0xF1B72EA7)) = [0x00, 0x00, 0x01] ∧
    valuesOf (after [0x11, 0x00] (loadedWith .g0 0x7E4D5E70 0x048D159C 0xF1B72EA7)) .g0 =
      some (0x3F26AF38, 0x048D159C, 0xF0DB9752) := by decide

/-- V24, fresh generator: KSG.NEXTBITS of 32 bits is answered least significant byte first. -/
theorem test_ksg_nextbits_32 :
    answer [0x12, 0x00, 0x20] zeroKeyState = [0x00, 0x00, 0xAD, 0x18, 0xEE, 0xFD] := by decide +kernel

/-- V24 row 6 and E11, E18: no round for a count of 0; the count is checked before the flags. -/
theorem test_ksg_nextbits_edges :
    answer [0x12, 0x00, 0x00] zeroKeyState = [0x00, 0x00, 0x00, 0x00, 0x00, 0x00] ∧
    answer [0x12, 0x00, 0x00] State.reset = [0x05, 0x00] ∧
    answer [0x12, 0x00, 0x40] State.reset = [0x04, 0x00] := by decide

/-- V26: KSG.CRYPTBYTE. -/
theorem test_ksg_cryptbyte :
    answer [0x13, 0x00, 0xFF] zeroKeyState = [0x00, 0x00, 0x02] ∧
    valuesOf (after [0x13, 0x00, 0xFF] zeroKeyState) .g0 = some (0x1F93579C, 0x048D159C, 0x086DCBA9) := by decide

/-- V23: KSG.CRYPT of "Hello" under the ascending key. -/
theorem test_ksg_crypt :
    answer [0x14, 0x00, 0x48, 0x65, 0x6C, 0x6C, 0x6F] ascendingState = [0x00, 0x00, 0x76, 0x24, 0x91, 0xB4, 0xBE] ∧
    valuesOf (after [0x14, 0x00, 0x48, 0x65, 0x6C, 0x6C, 0x6F] ascendingState) .g0 =
      some (0x37BDE31D, 0xFD183825, 0xF6141210) := by decide +kernel

/-- E27, E19 and E21: five bytes under MAXLEN = 4; an empty buffer on a slot with an unloaded register. -/
theorem test_ksg_crypt_refused :
    answer [0x14, 0x00, 0x00, 0x00, 0x00, 0x00, 0x00] (bounded 4 zeroKeyState) = [0x03, 0x00] ∧
    answer [0x14, 0x00] State.reset = [0x05, 0x00] ∧
    answer [0x14, 0x00] (after [0x01, 0x00, 0x00, 0x00, 0x00, 0x00] State.reset) = [0x05, 0x00] := by decide

/-- V44: CODEC.RUN of "AB" encrypts, and of the container it makes decrypts. -/
theorem test_codec_run :
    answer [0x20, 0x41, 0x42] withDraws = 0x00 :: 0x01 :: container44 ∧
    answer (0x20 :: container44) State.reset = [0x00, 0x02, 0x41, 0x42] := by decide +kernel

/-- V45 and E26 of CODEC.RUN: the whole signature and too few bytes is refused, a proper prefix is encrypted. -/
theorem test_codec_run_prefix :
    answer (0x20 :: magicBytes ++ [0x58]) withDraws = [0x06, 0x00] ∧
    (answer (0x20 :: magicBytes.take 27) withDraws).length = 133 := by decide +kernel

/-- V42: CODEC.DECRYPT of a container whose kek is not zero; the slots are unloaded after. -/
theorem test_codec_decrypt :
    answer (0x21 :: container42) zeroKeyState = [0x00, 0x02, 0x00, 0xFF, 0x55, 0xAA] ∧
    flagsOf (after (0x21 :: container42) zeroKeyState) = [false, false, false, false, false, false] := by
  decide +kernel

/-- E22, E24, E25 and P4: the refusals of CODEC.DECRYPT, which leave a loaded slot loaded. -/
theorem test_codec_decrypt_refused :
    answer (0x21 :: magicBytes) State.reset = [0x06, 0x00] ∧ answer [0x21, 0x41, 0x42] State.reset = [0x07, 0x00] ∧
    answer [0x21] State.reset = [0x07, 0x00] ∧
    valuesOf (after [0x21, 0x41, 0x42] ascendingState) .g0 = some (0x03020100, 0x07060504, 0x0B0A0908) := by
  decide +kernel

/-- V40: CODEC.ENCRYPT of "Hello, world!", the last 25 bytes; 60 bytes are drawn and the slots unloaded. -/
theorem test_codec_encrypt :
    (answer (0x22 :: hello) withDraws).drop 94 =
      [0xFD, 0xEF, 0x1A, 0xAE, 0x06, 0x5B, 0x9E, 0x5C, 0x1B, 0x82, 0x01, 0x12,
       0x76, 0x24, 0x91, 0xB4, 0xBE, 0x4C, 0xC7, 0xF2, 0xAC, 0x03, 0xCB, 0xE4, 0xF8] ∧
    (after (0x22 :: hello) withDraws).drawn = 60 ∧ (after (0x22 :: hello) withDraws).rnd = [] ∧
    flagsOf (after (0x22 :: hello) withDraws) = [false, false, false, false, false, false] := by decide +kernel

/-- V41: the empty payload gives a container of 104 bytes, the padding at offset 28. -/
theorem test_codec_encrypt_empty :
    (answer [0x22] withDraws).length = 106 ∧
    ((answer [0x22] { withDraws with rnd := ascendingKey ++ List.replicate 48 0x5A }).drop 30).take 48 =
      List.replicate 48 0x5A := by decide +kernel

/-- R160 and R21: a reset unloads a loaded slot and is not answered; with no input the machine idles. -/
theorem test_reset_and_idle :
    (match step { zeroKeyState with pending := [.reset] } with
      | .next t => (flagsOf t, t.responses, t.pending)
      | _ => ([], [], [.reset])) = ([false, false, false, false, false, false], [], []) ∧
    step zeroKeyState = .next zeroKeyState := ⟨by decide, rfl⟩

/-- V21 under PRE (section 2.6): the concrete vector. -/
theorem test_pre_concrete_vector :
    (crypt .pre ascendingKey (initGen kek)).1 =
      [0xFE, 0xF6, 0x0E, 0x55, 0x85, 0x2A, 0x4A, 0x2A, 0x81, 0xCC, 0x8F, 0x87] := by decide +kernel

/-- A word placed for the first step after reset is fetched and run. -/
theorem test_with_fetch_word :
    lastAnswer (match step (State.reset.withFetchWord 16 0x0010) with | .next t => t | _ => State.reset) =
      [0x00, 0x00] := by decide

/-! ### Witnesses: states and operands that meet the hypotheses of the statements -/

/-- Slot 0 is loaded in `zeroKeyState`. -/
theorem witness_all_loaded : AllLoaded zeroKeyState .g0 := by
  intro x
  cases x <;> rfl

/-- No register of slot 1 is loaded in `zeroKeyState`. -/
theorem witness_slot_unloaded : ∀ x, (zeroKeyState.reg .g1 x).loaded = false := by
  intro x
  cases x <;> rfl

/-- O1: a key of 12 bytes and a count of 32 are well formed. -/
theorem witness_DecodeOfEncodeIsTheCommand :
    (Instr.ksgInit .g1 ascendingKey).wellFormed = true ∧ (Instr.ksgNextBits .g0 32).wellFormed = true := by decide

/-- O2. -/
theorem witness_EncodeOfDecodeIsTheFrame : decode [0x12, 0x01, 0x20] = .ok (.ksgNextBits .g1 32) := by decide

/-- O4. -/
theorem witness_StepExecutesTheDecodedCommand :
    (State.reset.offerFrame [0x22]).pending = .frame [0x22] :: [] ∧ decode [0x22] = .ok (.codecEncrypt []) :=
  ⟨rfl, by decide⟩

/-- O5, O7: a waiting frame, the empty one and one with an opcode. -/
theorem witness_EveryFrameIsAnsweredOnce :
    (State.reset.offerFrame []).pending = .frame [] :: [] ∧
    (State.reset.offerFrame [0x20]).pending = .frame (0x20 :: []) :: [] := ⟨rfl, rfl⟩

/-- O5: each status is the first that applies to some frame (E2, E5, E9, E24, E22, E27, E16). -/
theorem witness_StatusIsTheFirstThatApplies :
    FirstThatApplies State.reset 0xFF [] .illegalCmd ∧
    FirstThatApplies State.reset 0x10 [0x00, 0x00] .frame ∧
    FirstThatApplies State.reset 0x12 [0x00, 0x21] .operand ∧
    FirstThatApplies State.reset 0x21 [0x41, 0x42] .notContainer ∧
    FirstThatApplies State.reset 0x21 magicBytes .malformedContainer ∧
    FirstThatApplies (bounded 4 zeroKeyState) 0x14 [0x00, 0x00, 0x00, 0x00, 0x00, 0x00] .length ∧
    FirstThatApplies State.reset 0x11 [0x00] .uninit := by
  refine ⟨⟨[], _, rfl, ?_⟩, ⟨[.illegalCmd], _, rfl, ?_⟩, ⟨[.illegalCmd, .frame], _, rfl, ?_⟩,
    ⟨[.illegalCmd, .frame, .operand], _, rfl, ?_⟩, ⟨[.illegalCmd, .frame, .operand, .notContainer], _, rfl, ?_⟩,
    ⟨[.illegalCmd, .frame, .operand, .notContainer, .malformedContainer], _, rfl, ?_⟩,
    ⟨[.illegalCmd, .frame, .operand, .notContainer, .malformedContainer, .length], _, rfl, ?_⟩⟩
  all_goals
    simp [errorApplies, assignedOpcodes, lengthFits, operandsLegal, magicBytes, payloadTooLong, readsUnloaded, bounded]
  exact ⟨.a, rfl⟩

/-- O5: no status applies to an empty CODEC.RUN. -/
theorem witness_StatusIsTheFirstThatApplies_ok : ∀ e, ¬ FirstThatApplies State.reset 0x20 [] e := by
  rintro e ⟨before, after, -, h, -⟩
  cases e <;>
    simp [errorApplies, assignedOpcodes, lengthFits, operandsLegal, magicBytes, payloadTooLong, readsUnloaded,
      State.reset, defaultMaxLen] at h

/-- O6: an illegal opcode. -/
theorem witness_RefusalLeavesNoTrace :
    (State.reset.offerFrame [0xFF]).pending = .frame [0xFF] :: [] ∧
    ∃ t, step (State.reset.offerFrame [0xFF]) = .next t ∧
      Answered (State.reset.offerFrame [0xFF]) t (.error .illegalCmd) := ⟨rfl, _, rfl, rfl⟩

/-- O8: an idle state, and a state whose next input is a reset. -/
theorem witness_IdleHoldsAndResetUnloads :
    zeroKeyState.pending = [] ∧
    ({ zeroKeyState with pending := [.reset, .frame [0x22]] } : State).pending = .reset :: [.frame [0x22]] :=
  ⟨rfl, rfl⟩

/-- O11: a zero register, a generator whose A is zero, and a register that peeks 0 and is its own successor. -/
theorem witness_ZeroIsTheFixedPoint :
    ((⟨0, true⟩ : ClockedRegister).value = 0) ∧ ((loadedWith .g0 0 1 0).slot .g0).a.value = 0 ∧
    peek ⟨0, true⟩ = false ∧ (advance .c ⟨0, true⟩).2.value = (⟨0, true⟩ : ClockedRegister).value := by decide

/-- O12: the lowest and the highest forced bit of each register. -/
theorem witness_AdvanceForcesTheHighBits :
    ∀ p ∈ ([(.a, 31), (.b, 30), (.b, 31), (.c, 28), (.c, 31)] : List (RegName × Nat)),
      p.1 = .a ∧ p.2 = 31 ∨ p.1 = .b ∧ (p.2 = 31 ∨ p.2 = 30) ∨ p.1 = .c ∧ 28 ≤ p.2 ∧ p.2 ≤ 31 := by decide

/-- O13: words that are not zero, of both kinds. -/
theorem witness_OnlyTheListedWordsStepToZero :
    (⟨0x80000000, true⟩ : ClockedRegister).value ≠ 0 ∧ (⟨0x20000000, true⟩ : ClockedRegister).value ≠ 0 ∧
    (⟨0x10000000, true⟩ : ClockedRegister).value ≠ 0 := by decide

/-- O15, O16, O17: loaded registers whose low bit is 1 and whose low bit is 0. -/
theorem witness_AdvanceStepsOneRegister :
    (zeroKeyState.reg .g0 .a).loaded = true ∧ (zeroKeyState.reg .g0 .a).value.getLsbD 0 = true ∧
    (zeroKeyState.reg .g0 .b).loaded = true ∧ (zeroKeyState.reg .g0 .b).value.getLsbD 0 = false := by decide

/-- O18: an unloaded register, the largest count, a bounded buffer, and executions of commands that read none. -/
theorem witness_UnloadedReadsAreRefused :
    (State.reset.reg .g1 .c).loaded = false ∧ (32 : Byte).toNat ≤ 32 ∧
    overMaxLen (bounded 4 State.reset).params.maxLen [(0 : Byte), 0, 0, 0].length = false ∧
    (slotOf (.codecRun []) = none ∧ ∃ t, exec (.codecRun []) State.reset = .next t) ∧
    (∃ t, exec (.lfsrLoad .g0 .a 0) State.reset = .next t) ∧
    ∃ t, exec (.ksgInit .g0 ascendingKey) State.reset = .next t :=
  ⟨rfl, by decide, rfl, ⟨rfl, _, rfl⟩, ⟨_, rfl⟩, ⟨_, rfl⟩⟩

/-- O20, O21, O32: a loaded slot whose A has low bit 1 under POST, and one whose A has low bit 0 under PRE. -/
theorem witness_NextBitClocksAAndOneOther :
    (AllLoaded zeroKeyState .g0 ∧ (zeroKeyState.reg .g0 .a).value.getLsbD 0 = true ∧
      zeroKeyState.params.sampleMode = .post) ∧
    (AllLoaded (underPre ascendingState) .g0 ∧ (ascendingState.reg .g0 .a).value.getLsbD 0 = false ∧
      (underPre ascendingState).params.sampleMode = .pre) ∧
    (AllLoaded ascendingState .g0 ∧ ascendingState.params.sampleMode = .post) := by
  refine ⟨⟨?_, rfl, rfl⟩, ⟨?_, rfl, rfl⟩, ?_, rfl⟩ <;> (intro x; cases x <;> rfl)

/-- O10, O22: the first and the last of 32 bits; O24: both ends of a split of 32. -/
theorem witness_NextBitsSplits : 32 ≤ 32 ∧ 0 < 32 ∧ 31 < 32 ∧ 0 + 32 ≤ 32 ∧ 31 + 1 ≤ 32 := by decide

/-- O23, O54: the largest and the smallest count, on a loaded slot for O23. -/
theorem witness_NextBitsAnswersFourBytes :
    (32 : Byte).toNat ≤ 32 ∧ (0 : Byte).toNat ≤ 32 ∧ AllLoaded zeroKeyState .g0 :=
  ⟨by decide, by decide, witness_all_loaded⟩

/-- O25, O26, O29, O31: a loaded slot with buffers of MAXLEN bytes and of none, and the last bit of the last byte. -/
theorem witness_CryptXorsTheKeystream :
    overMaxLen (bounded 4 zeroKeyState).params.maxLen [(0 : Byte), 1, 2, 3].length = false ∧
    overMaxLen (bounded 0 zeroKeyState).params.maxLen ([] : List Byte).length = false ∧
    overMaxLen (bounded 4 zeroKeyState).params.maxLen ([(0 : Byte), 1] ++ [2, 3]).length = false ∧
    AllLoaded (bounded 4 zeroKeyState) .g0 ∧ 3 < [(0 : Byte), 1, 2, 3].length ∧ 7 < 8 :=
  ⟨rfl, rfl, rfl, witness_all_loaded, by decide, by decide⟩

/-- O27: two states with the same slot 0, one of them with a loaded slot 1; two executions on data of one length. -/
theorem witness_CryptIsSelfInverse :
    (AllLoaded zeroKeyState .g0 ∧ (zeroKeyState.setSlot .g1 (initGen ascendingKey)).slot .g0 = zeroKeyState.slot .g0 ∧
      (zeroKeyState.setSlot .g1 (initGen ascendingKey)).params = zeroKeyState.params ∧
      overMaxLen zeroKeyState.params.maxLen hello.length = false) ∧
    [(1 : Byte)].length = [(2 : Byte)].length ∧ (∃ t, exec (.ksgCrypt .g0 [2]) zeroKeyState = .next t) ∧
    ∃ t, exec (.ksgCrypt .g0 [1]) zeroKeyState = .next t :=
  ⟨⟨witness_all_loaded, rfl, rfl, rfl⟩, rfl, ⟨_, rfl⟩, ⟨_, rfl⟩⟩

/-- O28: a key, two engines and later commands on its slot. -/
theorem witness_SameKeySameAnswers :
    ascendingKey.length = 12 ∧ zeroKeyState.params = State.reset.params ∧
    ∀ c ∈ [Instr.ksgNextBit .g0, .lfsrPeek .g0 .a, .ksgCrypt .g0 hello], slotOf c = some .g0 := by decide

/-- O33: a command on slot 0 and its execution; two states that agree on slot 0 alone; a CODEC command that
clears a flag. -/
theorem witness_SlotsDoNotShareRegisters :
    (slotOf (.ksgNextBit .g0) = some .g0 ∧ ∃ t, exec (.ksgNextBit .g0) zeroKeyState = .next t) ∧
    ((zeroKeyState.setSlot .g1 (initGen ascendingKey)).slot .g0 = zeroKeyState.slot .g0 ∧
      (zeroKeyState.setSlot .g1 (initGen ascendingKey)).params = zeroKeyState.params) ∧
    (zeroKeyState.reg .g0 .a).loaded = true ∧
    ∃ t, exec (.codecEncrypt []) zeroKeyState = .next t ∧ (t.reg .g0 .a).loaded = false :=
  ⟨⟨rfl, _, rfl⟩, ⟨rfl, rfl⟩, rfl, _, rfl, rfl⟩

/-- O34: a round on slot 0, which is no load and no init of the register; a load of another register, which is none of
the commands that clock it. -/
theorem witness_RegistersChangeOnlyByRule :
    (∃ t, exec (.ksgNextBit .g0) zeroKeyState = .next t) ∧ slotOf (.ksgNextBit .g0) ≠ none ∧
    (∀ seed, Instr.ksgNextBit .g0 ≠ .lfsrLoad .g0 .a seed) ∧ (∀ key, Instr.ksgNextBit .g0 ≠ .ksgInit .g0 key) ∧
    (∃ t, exec (.lfsrLoad .g0 .b 0) zeroKeyState = .next t) ∧ slotOf (.lfsrLoad .g0 .b 0) ≠ none ∧
    (∀ seed, Instr.lfsrLoad .g0 .b 0 ≠ .lfsrLoad .g0 .a seed) ∧ (∀ key, Instr.lfsrLoad .g0 .b 0 ≠ .ksgInit .g0 key) ∧
    Instr.lfsrLoad .g0 .b 0 ≠ .lfsrAdvance .g0 .a ∧ Instr.lfsrLoad .g0 .b 0 ≠ .ksgNextBit .g0 ∧
    (∀ n, Instr.lfsrLoad .g0 .b 0 ≠ .ksgNextBits .g0 n) ∧ (∀ v, Instr.lfsrLoad .g0 .b 0 ≠ .ksgCryptByte .g0 v) ∧
    ∀ buf, Instr.lfsrLoad .g0 .b 0 ≠ .ksgCrypt .g0 buf :=
  ⟨⟨_, rfl⟩, by decide, by simp, by simp, ⟨_, rfl⟩, by decide, by simp, by simp, by simp, by simp, by simp, by simp,
    by simp⟩

/-- O35: a load, an init, a CODEC command that ends with OK, one that is refused, and a command of neither kind. -/
theorem witness_LoadedFlagsChangeOnlyByRule :
    (∃ t, exec (.lfsrLoad .g0 .a 0) State.reset = .next t) ∧
    (ascendingKey.length = 12 ∧ ∃ t, exec (.ksgInit .g0 ascendingKey) State.reset = .next t) ∧
    (slotOf (.codecEncrypt []) = none ∧ ∃ t out, exec (.codecEncrypt []) zeroKeyState = .next t ∧
      Answered zeroKeyState t (.ok .encrypt out)) ∧
    (slotOf (.codecDecrypt []) = none ∧ ∃ t, exec (.codecDecrypt []) zeroKeyState = .next t ∧
      Answered zeroKeyState t (.error .notContainer)) ∧
    slotOf (.ksgNextBit .g0) ≠ none ∧ (∀ seed, Instr.ksgNextBit .g0 ≠ .lfsrLoad .g0 .a seed) ∧
    (∀ key, Instr.ksgNextBit .g0 ≠ .ksgInit .g0 key) ∧ ∃ t, exec (.ksgNextBit .g0) zeroKeyState = .next t :=
  ⟨⟨_, rfl⟩, ⟨rfl, _, rfl⟩, ⟨rfl, _, _, rfl, rfl⟩, ⟨rfl, _, rfl, rfl⟩, by decide, by simp, by simp, _, rfl⟩

/-- O36: the signature itself begins with the signature, 27 bytes of it do not. -/
theorem witness_RunChoosesTheModeByThePrefix :
    (∃ rest, magicBytes = magicBytes ++ rest) ∧ ¬ ∃ rest, magicBytes.take 27 = magicBytes ++ rest := by
  refine ⟨⟨[], rfl⟩, ?_⟩
  rintro ⟨rest, h⟩
  have hlen := congrArg List.length h
  simp [magicBytes] at hlen

/-- O37, O47: the parts of V42, with MAXLEN as small as the by-hand unwrapping allows; O45: two fillers. -/
theorem witness_ManualUnwrapEqualsDecrypt :
    (List.replicate 52 (0x00 : Byte)).length = 52 ∧ (List.replicate 52 (0xA5 : Byte)).length = 52 ∧
    (slice header42 80 92).length = 12 ∧ (slice header42 92 104).length = 12 ∧
    overMaxLen (bounded 12 State.reset).params.maxLen 12 = false ∧
    overMaxLen (bounded 12 State.reset).params.maxLen [(0xFC : Byte), 0x0F, 0x3C, 0x2B].length = false := by decide

/-- O37: the parts of V42 with MAXLEN no larger than its payload. -/
theorem witness_DecryptUnwrapsThenDecrypts :
    overMaxLen (bounded 4 State.reset).params.maxLen [(0xFC : Byte), 0x0F, 0x3C, 0x2B].length = false := by decide

/-- O38, O40: a payload as long as MAXLEN. -/
theorem witness_EncryptBuildsTheContainer :
    overMaxLen (bounded 13 State.reset).params.maxLen hello.length = false := by decide

/-- O39, O40: a payload without the signature, the shortest container and the longest input that is none. -/
theorem witness_RunCompletesInBothModes :
    (¬ magicBytes <+: hello ∧ overMaxLen (bounded 13 State.reset).params.maxLen hello.length = false) ∧
    (magicBytes <+: header42 ∧ 104 ≤ header42.length ∧
      overMaxLen (bounded 0 State.reset).params.maxLen (header42.length - 104) = false) ∧
    (magicBytes <+: header42.take 103 ∧ (header42.take 103).length < 104) := by decide

/-- O40, third clause: CODEC.RUN of a payload that begins with the signature. -/
theorem witness_ContainerRoundTrip :
    magicBytes <+: magicBytes ++ [(0x58 : Byte)] ∧
    ∃ t, exec (.codecRun (magicBytes ++ [0x58])) State.reset = .next t := ⟨⟨_, rfl⟩, _, rfl⟩

/-- O41, O42: an encryption that ends with OK, and a decryption. -/
theorem witness_LengthsArePreserved :
    (∃ t C, exec (.codecEncrypt []) State.reset = .next t ∧ Answered State.reset t (.ok .encrypt C)) ∧
    ∃ t, exec (.codecDecrypt container44) State.reset = .next t ∧
      Answered State.reset t (.ok .decrypt [0x41, 0x42]) :=
  ⟨⟨_, _, rfl, rfl⟩, _, rfl, by unfold Answered; decide +kernel⟩

/-- O43: a state whose MAXLEN is 12. -/
theorem witness_ConcreteVector : overMaxLen (bounded 12 State.reset).params.maxLen 12 = false := rfl

/-- O44: the header and the payload of V42 and the flip of V43. -/
theorem witness_TamperedBitsFlipAlone :
    header42.length = 104 ∧ magicBytes <+: header42 ∧
    [(0x01 : Byte), 0x00, 0x00, 0x00].length = [(0xFC : Byte), 0x0F, 0x3C, 0x2B].length ∧
    overMaxLen (bounded 4 State.reset).params.maxLen [(0xFC : Byte), 0x0F, 0x3C, 0x2B].length = false := by decide

/-- O46: two engines that differ in a slot, and a CODEC command that ends with OK. -/
theorem witness_CodecIgnoresAndEmptiesTheSlots :
    (slotOf (.codecRun hello) = none ∧ zeroKeyState.params = State.reset.params ∧
      zeroKeyState.rnd = State.reset.rnd ∧ zeroKeyState.drawn = State.reset.drawn) ∧
    ∃ t out, exec (.codecEncrypt []) zeroKeyState = .next t ∧ Answered zeroKeyState t (.ok .encrypt out) :=
  ⟨⟨rfl, rfl, rfl, rfl⟩, _, _, rfl, rfl⟩

/-- O48: an answer of each kind: an encryption, a decryption, a refusal, a command on a slot, and CODEC.RUN in both
modes. -/
theorem witness_InfoByteReportsTheMode :
    (∃ t r, exec (.codecEncrypt []) State.reset = .next t ∧ Answered State.reset t r ∧ r.bytes.head? = some 0x00) ∧
    (∃ t r, exec (.codecDecrypt header42) State.reset = .next t ∧ Answered State.reset t r ∧
      r.bytes.head? = some 0x00) ∧
    (∃ t r, exec (.codecDecrypt []) State.reset = .next t ∧ Answered State.reset t r ∧ r.bytes.head? = some 0x07) ∧
    (slotOf (.ksgNextBit .g0) ≠ none ∧
      ∃ t r, exec (.ksgNextBit .g0) zeroKeyState = .next t ∧ Answered zeroKeyState t r) ∧
    (magicBytes <+: header42 ∧ ∃ t r, exec (.codecRun header42) State.reset = .next t ∧ Answered State.reset t r ∧
      r.bytes.head? = some 0x00) ∧
    (¬ magicBytes <+: hello ∧ ∃ t r, exec (.codecRun hello) State.reset = .next t ∧ Answered State.reset t r ∧
      r.bytes.head? = some 0x00) :=
  ⟨⟨_, _, rfl, rfl, rfl⟩, ⟨_, _, rfl, rfl, rfl⟩, ⟨_, _, rfl, rfl, rfl⟩, ⟨by decide, _, _, rfl, rfl⟩,
    ⟨by decide, _, _, rfl, rfl, rfl⟩, ⟨by decide, _, _, rfl, rfl, rfl⟩⟩

/-- O49: two states that differ in what an unloaded register holds. -/
theorem witness_UnloadedValuesAreInvisible :
    Indistinguishable { zeroKeyState with g1 := ⟨⟨0x5, false⟩, ⟨0x6, false⟩, ⟨0x7, true⟩⟩ }
      { zeroKeyState with g1 := ⟨⟨0x9, false⟩, ⟨0xA, false⟩, ⟨0x7, true⟩⟩ } := by
  refine ⟨rfl, rfl, rfl, ?_⟩
  intro g x
  cases g <;> cases x <;> simp [State.reg, State.slot, Generator.reg]

/-- O50, O51, O53: one frame waits at reset, and a step takes it. -/
theorem witness_StepKeepsTheCounts :
    WholeDraws (State.reset.offerFrame [0x22]) ∧ AnswersAccountedFor 1 (State.reset.offerFrame [0x22]) ∧
    ∃ t, step (State.reset.offerFrame [0x22]) = .next t := ⟨rfl, rfl, _, rfl⟩

/-- O51. -/
theorem witness_StepKeepsUnloadedUnspecified : UnloadedUnspecified (State.reset.offerFrame [0x22]) := by
  intro g x _
  cases g <;> cases x <;> rfl

end Sys2Proof.Tests
end

section
/-! PROOFS. The family 10_state.md: the independence of the two slots (R23). `ActsOnSlot` says once what a command
addressed to a slot does; the clauses of O33 are read off it. -/

namespace Sys2Proof.Machine

/-- Whatever else the state holds, from the parameters `p` and the content `k` of slot `g` the command puts the same
new content into `g` and gives the same response, and a loaded register of `g` stays loaded (R23). -/
def ActsOnSlot (i : Instr) (g : Slot) (p : Params) (k : Generator) : Prop :=
  ∃ k' r, (∀ x, (k.reg x).loaded = true → (k'.reg x).loaded = true) ∧
    ∀ s : State, s.params = p → s.slot g = k → exec i s = .next ((s.setSlot g k').respond r)

theorem actsOnSlot_of_refuse {i : Instr} {g : Slot} {p : Params} {k : Generator} (e : Error)
    (h : ∀ s : State, s.params = p → s.slot g = k → exec i s = .next (s.refuse e)) : ActsOnSlot i g p k := by
  refine ⟨k, .error e, fun _ hx => hx, fun s hp hk => ?_⟩
  rw [h s hp hk, State.refuse_eq, ← hk, State.setSlot_slot_self]

theorem Generator.setReg_keeps_loaded (k : Generator) {x : RegName} {r : ClockedRegister} (hr : r.loaded = true)
    (y : RegName) (hy : (k.reg y).loaded = true) : ((k.setReg x r).reg y).loaded = true := by
  by_cases h : y = x
  · rw [h, Generator.reg_setReg_same, hr]
  · rw [Generator.reg_setReg_other k r h, hy]

/-- Every command addressed to a slot acts on that slot alone (R23). -/
theorem exec_actsOnSlot {i : Instr} {g : Slot} (hi : slotOf i = some g) (p : Params) (k : Generator) :
    ActsOnSlot i g p k := by
  cases i with
  | lfsrLoad g x seed =>
    cases hi
    refine ⟨k.setReg x ⟨seed, true⟩, .ok .none [], k.setReg_keeps_loaded rfl, fun s _ hk => ?_⟩
    rw [← hk]
    rfl
  | lfsrPeek g x =>
    cases hi
    by_cases hl : (k.reg x).loaded = true
    · refine ⟨k, .ok .none [bitByte (peek (k.reg x))], fun _ hx => hx, fun s _ hk => ?_⟩
      subst hk
      simp [exec, execLfsrPeek, State.reg, hl, State.respondOk_eq]
    · exact actsOnSlot_of_refuse .uninit fun s _ hk => by simp [exec, execLfsrPeek, State.reg, hk, hl]
  | lfsrAdvance g x =>
    cases hi
    by_cases hl : (k.reg x).loaded = true
    · refine ⟨k.setReg x (advance x (k.reg x)).2, .ok .none [bitByte (peek (k.reg x))],
        k.setReg_keeps_loaded (by rw [advance_loaded, hl]), fun s _ hk => ?_⟩
      simp [exec, execLfsrAdvance, State.advanceReg_eq, State.reg, State.setReg, hk, hl, State.respondOk_eq]
    · exact actsOnSlot_of_refuse .uninit fun s _ hk => by simp [exec, execLfsrAdvance, State.reg, hk, hl]
  | ksgInit g key =>
    cases hi
    by_cases hlen : key.length = keyLen
    · refine ⟨initGen key, .ok .none [], fun x _ => by rw [initGen_reg, initReg], fun s _ _ => ?_⟩
      simp [exec, execKsgInit, hlen, State.initSlot_eq, State.respondOk_eq]
    · exact actsOnSlot_of_refuse .frame fun s _ _ => by simp [exec, execKsgInit, hlen]
  | ksgNextBit g =>
    cases hi
    by_cases hl : k.loaded = true
    · refine ⟨(nextBit p.sampleMode k).2, .ok .none [bitByte (nextBit p.sampleMode k).1],
        by simp, fun s hp hk => ?_⟩
      simp [exec, execKsgNextBit, State.slotLoaded, State.nextBit_eq, hp, hk, hl, State.respondOk_eq]
    · exact actsOnSlot_of_refuse .uninit fun s _ hk => by simp [exec, execKsgNextBit, State.slotLoaded, hk, hl]
  | ksgNextBits g n =>
    cases hi
    by_cases hn : n.toNat ≤ nMax
    · by_cases hl : k.loaded = true
      · refine ⟨(nextBits p.sampleMode n.toNat k).2, .ok .none (bytesLe32 (nextBits p.sampleMode n.toNat k).1),
          by simp, fun s hp hk => ?_⟩
        simp [exec, execKsgNextBits, State.slotLoaded, State.nextBits_eq, hn, hp, hk, hl, State.respondOk_eq]
      · exact actsOnSlot_of_refuse .uninit fun s _ hk => by
          simp [exec, execKsgNextBits, State.slotLoaded, hn, hk, hl]
    · exact actsOnSlot_of_refuse .operand fun s _ _ => by simp [exec, execKsgNextBits, hn]
  | ksgCryptByte g v =>
    cases hi
    by_cases hl : k.loaded = true
    · refine ⟨(cryptByte p.sampleMode v k).2, .ok .none [(cryptByte p.sampleMode v k).1],
        by simp [cryptByte_eq], fun s hp hk => ?_⟩
      simp [exec, execKsgCryptByte, State.slotLoaded, State.cryptByte_eq, hp, hk, hl, State.respondOk_eq]
    · exact actsOnSlot_of_refuse .uninit fun s _ hk => by simp [exec, execKsgCryptByte, State.slotLoaded, hk, hl]
  | ksgCrypt g buf =>
    cases hi
    by_cases hm : overMaxLen p.maxLen buf.length = true
    · exact actsOnSlot_of_refuse .length fun s hp _ => by simp [exec, execKsgCrypt, hp, hm]
    · by_cases hl : k.loaded = true
      · refine ⟨(crypt p.sampleMode buf k).2, .ok .none (crypt p.sampleMode buf k).1, by simp, fun s hp hk => ?_⟩
        simp [exec, execKsgCrypt, State.slotLoaded, State.crypt_eq, hm, hp, hk, hl, State.respondOk_eq]
      · exact actsOnSlot_of_refuse .uninit fun s hp hk => by
          simp [exec, execKsgCrypt, State.slotLoaded, hm, hp, hk, hl]
  | codecRun input => cases hi
  | codecDecrypt input => cases hi
  | codecEncrypt input => cases hi

theorem setSlot_respond_otherSlotKept (s : State) (g : Slot) (k : Generator) (r : Response) :
    OtherSlotKept g s ((s.setSlot g k).respond r) := by
  intro g' hne
  rw [State.respond_slot, State.slot_setSlot_other s k hne]

theorem setSlot_respond_sameRest (s : State) (g : Slot) (k : Generator) (r : Response) :
    SameRest s ((s.setSlot g k).respond r) := by
  simp [SameRest]

theorem setSlot_respond_answered (s : State) (g : Slot) (k : Generator) (r : Response) :
    Answered s ((s.setSlot g k).respond r) r := by
  simp [Answered]

theorem exec_keeps_loaded_of_slotOf {i : Instr} {g : Slot} {s t : State} (hi : slotOf i = some g)
    (ht : exec i s = .next t) (h : Slot) (x : RegName) (hx : (s.reg h x).loaded = true) :
    (t.reg h x).loaded = true := by
  obtain ⟨k', r, hkeep, hact⟩ := exec_actsOnSlot hi s.params (s.slot g)
  cases ht.symm.trans (hact s rfl rfl)
  by_cases hg : h = g
  · subst hg
    simpa [State.reg] using hkeep x hx
  · simpa [State.reg, State.slot_setSlot_other s k' hg] using hx

/-- A CODEC command is refused and keeps every register, or it clears all six flags (R119, R140). -/
theorem exec_codec_refused_or_allUnloaded {i : Instr} {s t : State} (hi : slotOf i = none)
    (ht : exec i s = .next t) : (∃ e, t = s.refuse e) ∨ AllUnloaded t := by
  obtain ⟨e, h⟩ | ⟨g, k, out, hg, -⟩ | ⟨P, -, h⟩ | ⟨C, -, h⟩ := exec_shape i s
  · cases ht.symm.trans h
    exact .inl ⟨e, rfl⟩
  · rw [hi] at hg
    cases hg
  · cases ht.symm.trans h
    exact .inr fun g x => by simp [unloadedRegister]
  · cases ht.symm.trans h
    exact .inr fun g x => by simp [State.afterDraws, unloadedRegister]

/-- Settles O33: a command on a slot acts on that slot alone, and only a CODEC command that is not refused clears a
flag. -/
theorem slotsDoNotShareRegisters : Obligations.SlotsDoNotShareRegisters := by
  unfold Obligations.SlotsDoNotShareRegisters
  refine ⟨fun i g s t hi ht => ?_, fun i g s s' hi hslot hparams => ?_, fun i g x s t ht hs hcleared => ?_⟩
  · obtain ⟨k', r, -, hact⟩ := exec_actsOnSlot hi s.params (s.slot g)
    cases ht.symm.trans (hact s rfl rfl)
    exact ⟨setSlot_respond_otherSlotKept s g k' r, setSlot_respond_sameRest s g k' r⟩
  · obtain ⟨k', r, -, hact⟩ := exec_actsOnSlot hi s.params (s.slot g)
    exact ⟨_, _, r, hact s rfl rfl, hact s' hparams hslot, setSlot_respond_answered s g k' r,
      setSlot_respond_answered s' g k' r, by simp⟩
  · have hcodec : slotOf i = none := by
      cases hi : slotOf i with
      | none => rfl
      | some h =>
        have hkept := exec_keeps_loaded_of_slotOf hi ht g x hs
        rw [hcleared] at hkept
        cases hkept
    obtain ⟨e, rfl⟩ | hall := exec_codec_refused_or_allUnloaded hcodec ht
    · rw [State.refuse_eq, State.respond_reg, hs] at hcleared
      cases hcleared
    · exact ⟨hcodec, hall⟩

end Sys2Proof.Machine
end

section
/-! PROOFS. The family 30_encoding.md: one response per frame (R51) and its `info` byte (R58). `AnswersIn` says once
how a command answers; `exec_answersIn` gives every command the one mode it can answer OK in. -/

namespace Sys2Proof.Machine

/-! ### The codes of a response -/

theorem errorCode_injective : Function.Injective errorCode := by
  intro e e'
  cases e <;> cases e' <;> simp [errorCode]

@[simp] theorem errorCode_ne_zero (e : Error) : errorCode e ≠ 0#8 := by
  cases e <;> decide

theorem errorCode_toNat_le (e : Error) : (errorCode e).toNat ≤ 7 := by
  cases e <;> decide

theorem Answered.unique {s t : State} {r r' : Response} (h : Answered s t r) (h' : Answered s t r') : r = r' :=
  List.singleton_injective (List.append_cancel_left (h.symm.trans h'))

/-! ### How a command answers -/

/-- From `s` to `t` the host's inputs are kept and one response is given: an error, or OK in mode `m` (R51, R58). -/
def AnswersIn (m : Info) (s t : State) : Prop :=
  t.pending = s.pending ∧ ((∃ e, Answered s t (.error e)) ∨ ∃ out, Answered s t (.ok m out))

theorem refuse_answersIn (m : Info) (s : State) (e : Error) : AnswersIn m s (s.refuse e) :=
  ⟨rfl, .inl ⟨e, rfl⟩⟩

theorem respond_ok_answersIn (m : Info) (out : List Byte) {s u : State} (hpending : u.pending = s.pending)
    (hresponses : u.responses = s.responses) : AnswersIn m s (u.respond (.ok m out)) :=
  ⟨hpending, .inr ⟨out, by rw [Answered, State.respond_responses, hresponses]⟩⟩

theorem decryptCommand_answersIn (s : State) (input : List Byte) : AnswersIn .decrypt s (s.decryptCommand input) := by
  obtain h | h | h | h := s.decryptCommand_cases input <;> rw [h]
  · exact refuse_answersIn ..
  · exact refuse_answersIn ..
  · exact refuse_answersIn ..
  · exact respond_ok_answersIn _ _ rfl rfl

theorem encryptCommand_answersIn (s : State) (input : List Byte) : AnswersIn .encrypt s (s.encryptCommand input) := by
  obtain h | h := s.encryptCommand_cases input <;> rw [h]
  · exact refuse_answersIn ..
  · exact respond_ok_answersIn _ _ (by simp [State.draw_snd]) (by simp [State.draw_snd])

theorem exec_answersIn_none {i : Instr} {g : Slot} (hi : slotOf i = some g) (s : State) :
    ∃ t, exec i s = .next t ∧ AnswersIn .none s t := by
  obtain ⟨e, h⟩ | ⟨g', k, out, -, h⟩ | ⟨P, hcodec, -⟩ | ⟨C, hcodec, -⟩ := exec_shape i s
  · exact ⟨_, h, refuse_answersIn ..⟩
  · exact ⟨_, h, respond_ok_answersIn .none out (by simp) (by simp)⟩
  · cases hi.symm.trans hcodec
  · cases hi.symm.trans hcodec

/-! ### The mode of a command -/

/-- HasMagic asks whether the input begins with the signature (R110); its length test adds nothing. -/
theorem hasMagic_iff (input : List Byte) : hasMagic input = true ↔ magicBytes <+: input := by
  have hslice : slice input 0 magicLen = input.take magicBytes.length := rfl
  rw [hasMagic, hslice, Bool.and_eq_true, decide_eq_true_eq, beq_iff_eq, List.prefix_iff_eq_take]
  constructor
  · rintro ⟨-, h⟩
    exact h.symm
  · intro h
    exact ⟨(List.prefix_iff_eq_take.mpr h).length_le, h.symm⟩

/-- The mode in which a command ends when it ends with OK (R58, R111). -/
def modeOf : Instr → Info
  | .codecRun input => if hasMagic input then .decrypt else .encrypt
  | .codecDecrypt _ => .decrypt
  | .codecEncrypt _ => .encrypt
  | _ => .none

theorem modeOf_of_slotOf {i : Instr} {g : Slot} (hi : slotOf i = some g) : modeOf i = .none := by
  cases i <;> simp [slotOf, modeOf] at hi ⊢

/-- Every command is answered once: with an error, or with OK in its own mode. -/
theorem exec_answersIn (i : Instr) (s : State) : ∃ t, exec i s = .next t ∧ AnswersIn (modeOf i) s t := by
  cases hi : slotOf i with
  | some g =>
    rw [modeOf_of_slotOf hi]
    exact exec_answersIn_none hi s
  | none =>
    match i, hi with
    | .codecDecrypt input, _ => exact ⟨_, rfl, decryptCommand_answersIn s input⟩
    | .codecEncrypt input, _ => exact ⟨_, rfl, encryptCommand_answersIn s input⟩
    | .codecRun input, _ =>
      by_cases hm : hasMagic input = true
      · simpa [exec, execCodecRun, modeOf, hm] using decryptCommand_answersIn s input
      · simpa [exec, execCodecRun, modeOf, hm] using encryptCommand_answersIn s input

/-- Every frame is taken and answered once, whether it decodes or not. -/
theorem step_frame_answersIn {s : State} {F : List Byte} {rest : List HostInput} (hF : s.pending = .frame F :: rest) :
    ∃ t m, step s = .next t ∧ AnswersIn m { s with pending := rest } t := by
  rw [step, State.takeInput, hF]
  cases hd : decode F with
  | ok i =>
    obtain ⟨t, ht, ha⟩ := exec_answersIn i { s with pending := rest }
    exact ⟨t, modeOf i, by simpa [hd] using ht, ha⟩
  | error e => exact ⟨_, .none, by simp only [hd], refuse_answersIn _ _ e⟩

/-- Settles O7: the step answers once, and `errorCode` separates the seven errors from each other and from OK. -/
theorem everyFrameIsAnsweredOnce : Obligations.EveryFrameIsAnsweredOnce := by
  unfold Obligations.EveryFrameIsAnsweredOnce
  intro s F rest hF
  obtain ⟨t, m, ht, hpending, ⟨e, ha⟩ | ⟨out, ha⟩⟩ := step_frame_answersIn hF
  · have code (e' : Error) : errorCode e = errorCode e' ↔ Response.error e = .error e' := by
      rw [errorCode_injective.eq_iff, Response.error.injEq]
    exact ⟨t, .error e, errorCode e, 0x00, [], ht, hpending, ha, rfl, by simp, by simp, by simp, by simp,
      by simp, code .illegalCmd, code .frame, code .length, code .operand, code .uninit,
      code .malformedContainer, code .notContainer, errorCode_toNat_le e⟩
  · refine ⟨t, .ok m out, 0x00, infoByte m, out, ht, hpending, ha, rfl, ?_⟩
    cases m <;> simp [infoByte]

/-- Settles O48: a response is an error, or OK with the info byte of the command's mode. -/
theorem infoByteReportsTheMode : Obligations.InfoByteReportsTheMode := by
  unfold Obligations.InfoByteReportsTheMode
  refine ⟨fun e => ⟨errorCode e, rfl, errorCode_ne_zero e⟩, fun i s t r ht hr => ?_⟩
  obtain ⟨t', ht', -, ⟨e, ha⟩ | ⟨out, ha⟩⟩ := exec_answersIn i s <;> cases ht.symm.trans ht' <;>
    cases hr.unique ha
  · exact ⟨errorCode e, 0x00, [], rfl, by simp⟩
  · refine ⟨0x00, infoByte (modeOf i), out, rfl, by simp, fun hi => ?_, ?_, ?_, ?_⟩
    · obtain ⟨g, hg⟩ := Option.ne_none_iff_exists'.mp hi
      rw [modeOf_of_slotOf hg, infoByte]
    · rintro P rfl -
      rfl
    · rintro C rfl -
      rfl
    · rintro input rfl -
      rw [← hasMagic_iff]
      constructor <;> intro hm <;> simp [modeOf, hm, infoByte]

end Sys2Proof.Machine
end

section
/-! PROOFS. The family 40_lfsr.md: one clock of a register (R80, R81, R86) and what can change one (R88).
`exec_registerRule` says once what a command on a slot can do to a register; O34 is read off it. -/

namespace Sys2Proof.Machine

/-! ### The fixed point (R86) -/

/-- Zero takes the branch without feedback and stays zero, whatever the constants (R86). -/
theorem clock_of_zero (mask rot nrot : Word) {r : ClockedRegister} (h : r.value = 0) :
    clock mask rot nrot r = (false, r) := by
  obtain ⟨v, l⟩ := r
  subst h
  simp [clock]

theorem advance_of_zero (x : RegName) {r : ClockedRegister} (h : r.value = 0) : advance x r = (false, r) :=
  clock_of_zero _ _ _ h

theorem peek_of_zero {r : ClockedRegister} (h : r.value = 0) : peek r = false := by
  simp [peek, h]

theorem clocks_of_zero (x : RegName) {r : ClockedRegister} (h : r.value = 0) (n : Nat) : clocks x n r = r := by
  induction n with
  | zero => rfl
  | succ n ih => rw [clocks, advance_of_zero x h, ih]

/-- A word that a shift and a mask leave as it was is zero: the shift halves it and the mask adds nothing. -/
theorem eq_zero_of_shift_and_eq {v rot : Word} (h : (v >>> 1) &&& rot = v) : v = 0 := by
  have hle : v.toNat ≤ v.toNat / 2 :=
    calc v.toNat = (v.toNat / 2) &&& rot.toNat := by
          simpa [Nat.shiftRight_eq_div_pow] using (congrArg BitVec.toNat h).symm
      _ ≤ v.toNat / 2 := Nat.and_le_left
  exact BitVec.eq_of_toNat_eq (by simp; omega)

/-- Settles O11: a clock of zero shifts and masks zero; a fixed point without feedback is at most half itself. -/
theorem zeroIsTheFixedPoint : Obligations.ZeroIsTheFixedPoint := by
  unfold Obligations.ZeroIsTheFixedPoint
  refine ⟨fun mask rot r h => clock_of_zero mask rot _ h,
    fun x r h => ⟨peek_of_zero h, clocks_of_zero x h⟩, fun m k h => ?_, fun x r hpeek hfix => ?_⟩
  · rw [nextBit_of_not_took m k (peek_of_zero h), advance_of_zero .a h]
  · rw [advance_value_of_not_low x r hpeek] at hfix
    exact eq_zero_of_shift_and_eq hfix

/-! ### LFSR.PEEK and LFSR.ADVANCE on a loaded register -/

theorem exec_lfsrPeek_of_loaded {g : Slot} {x : RegName} {s : State} (h : (s.reg g x).loaded = true) :
    exec (.lfsrPeek g x) s = .next (s.respond (.ok .none [bitByte (peek (s.reg g x))])) := by
  simp [exec, execLfsrPeek, h, State.respondOk_eq]

theorem exec_lfsrAdvance_of_loaded {g : Slot} {x : RegName} {s : State} (h : (s.reg g x).loaded = true) :
    exec (.lfsrAdvance g x) s = .next
      ((s.setReg g x (advance x (s.reg g x)).2).respond (.ok .none [bitByte (peek (s.reg g x))])) := by
  simp [exec, execLfsrAdvance, h, State.advanceReg_eq, State.respondOk_eq]

theorem exec_lfsrPeek_of_not_loaded {g : Slot} {x : RegName} {s : State} (h : ¬ (s.reg g x).loaded = true) :
    exec (.lfsrPeek g x) s = .next (s.refuse .uninit) := by
  simp [exec, execLfsrPeek, h]

theorem exec_lfsrAdvance_of_not_loaded {g : Slot} {x : RegName} {s : State} (h : ¬ (s.reg g x).loaded = true) :
    exec (.lfsrAdvance g x) s = .next (s.refuse .uninit) := by
  simp [exec, execLfsrAdvance, h]

/-- Settles O15: a peek of a loaded register only appends its response. -/
theorem peekAnswersBitZero : Obligations.PeekAnswersBitZero := by
  unfold Obligations.PeekAnswersBitZero
  intro g x s h
  exact ⟨_, exec_lfsrPeek_of_loaded h, ⟨rfl, rfl⟩, ⟨rfl, rfl, rfl, rfl, rfl⟩, rfl⟩

/-- Settles O16: the register written is the one Advance gives, on the branch its bit 0 chooses. -/
theorem advanceStepsOneRegister : Obligations.AdvanceStepsOneRegister := by
  unfold Obligations.AdvanceStepsOneRegister
  intro g x s h
  have hloaded : (advance x (s.reg g x)).2.loaded = true := by rw [advance_loaded, h]
  refine ⟨_, exec_lfsrAdvance_of_loaded h, fun hlow => ?_, fun hlow => ?_, fun g' x' hne => ?_,
    setSlot_respond_sameRest s g _ _, setSlot_respond_answered s g _ _⟩
  · rw [State.respond_reg, State.reg_setReg_same, ← hloaded, ← nrotOf, ← advance_value_of_low x _ hlow]
  · rw [State.respond_reg, State.reg_setReg_same, ← hloaded, ← advance_value_of_not_low x _ hlow]
  · rw [State.respond_reg, State.reg_setReg_other s _ hne]

/-! ### Output commands run rounds, and a round clocks registers (R92, R94) -/

theorem roundState_add (m : SampleMode) (n n' : Nat) (k : Generator) :
    roundState m (n + n') k = roundState m n' (roundState m n k) := by
  induction n generalizing k with
  | zero => rw [Nat.zero_add, roundState]
  | succ n ih => rw [Nat.succ_add, roundState, ih, roundState]

theorem nextBitsLoop_snd_eq_roundState (m : SampleMode) (n : Nat) (acc : Word) (k : Generator) :
    (nextBitsLoop m n acc k).2 = roundState m n k := by
  induction n generalizing acc k with
  | zero => rfl
  | succ n ih => rw [nextBitsLoop_succ, ih, roundState]

theorem nextBits_snd_eq_roundState (m : SampleMode) (n : Nat) (k : Generator) :
    (nextBits m n k).2 = roundState m n k :=
  nextBitsLoop_snd_eq_roundState m n 0 k

theorem cryptByte_snd_eq_roundState (m : SampleMode) (v : Byte) (k : Generator) :
    (cryptByte m v k).2 = roundState m 8 k :=
  nextBits_snd_eq_roundState m byteBits k

theorem crypt_snd_eq_roundState (m : SampleMode) (buf : List Byte) (k : Generator) :
    (crypt m buf k).2 = roundState m (8 * buf.length) k := by
  induction buf generalizing k with
  | nil => rfl
  | cons v rest ih =>
    rw [crypt_cons, ih, cryptByte_snd_eq_roundState, ← roundState_add, List.length_cons]
    congr 1
    omega

theorem clocks_add (x : RegName) (n n' : Nat) (r : ClockedRegister) :
    clocks x (n + n') r = clocks x n' (clocks x n r) := by
  induction n generalizing r with
  | zero => rw [Nat.zero_add, clocks]
  | succ n ih => rw [Nat.succ_add, clocks, ih, clocks]

/-- A round clocks each register once or not at all (R92). -/
theorem nextBit_reg_clocks (m : SampleMode) (k : Generator) (x : RegName) :
    ∃ n, (nextBit m k).2.reg x = clocks x n (k.reg x) := by
  cases h : peek k.a with
  | false =>
    rw [nextBit_of_not_took m k h]
    cases x with
    | a => exact ⟨1, rfl⟩
    | b => exact ⟨0, rfl⟩
    | c => exact ⟨1, rfl⟩
  | true =>
    rw [nextBit_of_took m k h]
    cases x with
    | a => exact ⟨1, rfl⟩
    | b => exact ⟨1, rfl⟩
    | c => exact ⟨0, rfl⟩

theorem roundState_reg_clocks (m : SampleMode) (n : Nat) (k : Generator) (x : RegName) :
    ∃ c, (roundState m n k).reg x = clocks x c (k.reg x) := by
  induction n generalizing k with
  | zero => exact ⟨0, rfl⟩
  | succ n ih =>
    obtain ⟨first, hfirst⟩ := nextBit_reg_clocks m k x
    obtain ⟨later, hlater⟩ := ih (nextBit m k).2
    exact ⟨first + later, by rw [roundState, hlater, hfirst, clocks_add]⟩

/-- The four commands that take keystream from a slot (R88, R93, R96, R99, R100). -/
def OutputsFrom (g : Slot) (i : Instr) : Prop :=
  i = .ksgNextBit g ∨ (∃ n, i = .ksgNextBits g n) ∨ (∃ v, i = .ksgCryptByte g v) ∨ ∃ buf, i = .ksgCrypt g buf

/-- An output command leaves its slot some rounds on: none when it is refused (R94). -/
theorem exec_slot_of_outputsFrom {i : Instr} {g : Slot} {s t : State} (hi : OutputsFrom g i)
    (ht : exec i s = .next t) : ∃ n, t.slot g = roundState s.params.sampleMode n (s.slot g) := by
  have refused (e : Error) : ∃ n, (s.refuse e).slot g = roundState s.params.sampleMode n (s.slot g) :=
    ⟨0, s.respond_slot _ g⟩
  obtain rfl | ⟨n, rfl⟩ | ⟨v, rfl⟩ | ⟨buf, rfl⟩ := hi
  · simp only [exec, execKsgNextBit] at ht
    split at ht <;> cases ht
    · exact ⟨1, by simp [State.respondOk_eq, State.nextBit_eq, roundState]⟩
    · exact refused .uninit
  · simp only [exec, execKsgNextBits] at ht
    split at ht
    · split at ht <;> cases ht
      · exact ⟨n.toNat, by simp [State.respondOk_eq, State.nextBits_eq, nextBits_snd_eq_roundState]⟩
      · exact refused .uninit
    · cases ht
      exact refused .operand
  · simp only [exec, execKsgCryptByte] at ht
    split at ht <;> cases ht
    · exact ⟨8, by simp [State.respondOk_eq, State.cryptByte_eq, cryptByte_snd_eq_roundState]⟩
    · exact refused .uninit
  · simp only [exec, execKsgCrypt] at ht
    split at ht
    · cases ht
      exact refused .length
    · split at ht <;> cases ht
      · exact ⟨8 * buf.length, by simp [State.respondOk_eq, State.crypt_eq, crypt_snd_eq_roundState]⟩
      · exact refused .uninit

/-! ### What can change a register (R88) -/

/-- What a command can do to register `x` of slot `g`: leave it, load it, seed it, or clock it (R88). -/
def RegisterRule (i : Instr) (g : Slot) (x : RegName) (r r' : ClockedRegister) : Prop :=
  r' = r ∨ (∃ seed, i = .lfsrLoad g x seed ∧ r' = ⟨seed, true⟩) ∨ (∃ key, i = .ksgInit g key ∧ r' = initReg key x) ∨
    (i = .lfsrAdvance g x ∨ OutputsFrom g i) ∧ ∃ n, r' = clocks x n r

theorem RegisterRule.of_outputsFrom {i : Instr} {g : Slot} {x : RegName} {s t : State} (hi : OutputsFrom g i)
    (ht : exec i s = .next t) : RegisterRule i g x (s.reg g x) (t.reg g x) := by
  obtain ⟨n, hslot⟩ := exec_slot_of_outputsFrom hi ht
  obtain ⟨c, hreg⟩ := roundState_reg_clocks s.params.sampleMode n (s.slot g) x
  exact .inr (.inr (.inr ⟨.inr hi, c, by rw [State.reg, hslot, hreg, State.reg]⟩))

theorem exec_registerRule_of_slotOf {i : Instr} {g : Slot} {s t : State} (hi : slotOf i = some g)
    (ht : exec i s = .next t) (x : RegName) : RegisterRule i g x (s.reg g x) (t.reg g x) := by
  cases i with
  | lfsrLoad g y seed =>
    cases hi
    cases ht
    by_cases hy : x = y
    · subst hy
      exact .inr (.inl ⟨seed, rfl, by simp [State.respondOk_eq]⟩)
    · exact .inl (by simp [State.respondOk_eq, State.reg_setReg_other, hy])
  | lfsrPeek g y =>
    cases hi
    by_cases hl : (s.reg g y).loaded = true
    · cases ht.symm.trans (exec_lfsrPeek_of_loaded hl)
      exact .inl (s.respond_reg _ g x)
    · cases ht.symm.trans (exec_lfsrPeek_of_not_loaded hl)
      exact .inl (s.respond_reg _ g x)
  | lfsrAdvance g y =>
    cases hi
    by_cases hl : (s.reg g y).loaded = true
    · cases ht.symm.trans (exec_lfsrAdvance_of_loaded hl)
      by_cases hy : x = y
      · subst hy
        exact .inr (.inr (.inr ⟨.inl rfl, 1, by simp [clocks]⟩))
      · exact .inl (by simp [State.reg_setReg_other, hy])
    · cases ht.symm.trans (exec_lfsrAdvance_of_not_loaded hl)
      exact .inl (s.respond_reg _ g x)
  | ksgInit g key =>
    cases hi
    simp only [exec, execKsgInit] at ht
    split at ht <;> cases ht
    · exact .inr (.inr (.inl ⟨key, rfl, by simp [State.respondOk_eq, State.initSlot_eq, State.reg]⟩))
    · exact .inl (s.respond_reg _ g x)
  | ksgNextBit g =>
    cases hi
    exact .of_outputsFrom (.inl rfl) ht
  | ksgNextBits g n =>
    cases hi
    exact .of_outputsFrom (.inr (.inl ⟨n, rfl⟩)) ht
  | ksgCryptByte g v =>
    cases hi
    exact .of_outputsFrom (.inr (.inr (.inl ⟨v, rfl⟩))) ht
  | ksgCrypt g buf =>
    cases hi
    exact .of_outputsFrom (.inr (.inr (.inr ⟨buf, rfl⟩))) ht
  | codecRun input => cases hi
  | codecDecrypt input => cases hi
  | codecEncrypt input => cases hi

/-- The rule holds of every register, those of the slot the command does not address being left alone (R23, R88). -/
theorem exec_registerRule {i : Instr} {s t : State} (hi : slotOf i ≠ none) (ht : exec i s = .next t) (g : Slot)
    (x : RegName) : RegisterRule i g x (s.reg g x) (t.reg g x) := by
  obtain ⟨h, hh⟩ := Option.ne_none_iff_exists'.mp hi
  by_cases hg : g = h
  · subst hg
    exact exec_registerRule_of_slotOf hh ht x
  · obtain ⟨hother, -⟩ := slotsDoNotShareRegisters.1 i h s t hh ht
    exact .inl (by rw [State.reg, hother g hg, State.reg])

/-- Settles O34: with loading and seeding excluded, the rule leaves a register alone or clocks it. -/
theorem registersChangeOnlyByRule : Obligations.RegistersChangeOnlyByRule := by
  unfold Obligations.RegistersChangeOnlyByRule
  intro i g x s t ht hi hload hinit
  obtain hkept | ⟨seed, rfl, -⟩ | ⟨key, rfl, -⟩ | ⟨hclocks, hn⟩ := exec_registerRule hi ht g x
  · exact ⟨⟨0, hkept⟩, fun _ _ _ _ _ => hkept⟩
  · exact absurd rfl (hload seed)
  · exact absurd rfl (hinit key)
  · refine ⟨hn, fun hadvance hbit hbits hbyte hcrypt => ?_⟩
    obtain h | h | ⟨n, h⟩ | ⟨v, h⟩ | ⟨buf, h⟩ := hclocks
    · exact absurd h hadvance
    · exact absurd h hbit
    · exact absurd h (hbits n)
    · exact absurd h (hbyte v)
    · exact absurd h (hcrypt buf)

end Sys2Proof.Machine
end

section
/-! PROOFS. The family 41_keystream.md: the rounds of a generator (R94), its keystream packed into numbers and bytes
(R95 to R98) and the commands that answer it. `onSlot` says what a command does to the generator of its slot, whichever
slot that is, so that a statement about a run of commands becomes one about a generator alone. -/

namespace Sys2Proof.Machine

/-! ### The clocks of a round (R94) -/

theorem nextBit_a (m : SampleMode) (k : Generator) : (nextBit m k).2.a = (advance .a k.a).2 := by
  cases h : peek k.a with
  | false => rw [nextBit_of_not_took m k h]
  | true => rw [nextBit_of_took m k h]

/-- Over `n` rounds A is clocked each time, and each time one of B and C with it (R94). -/
theorem roundState_clocks (m : SampleMode) (n : Nat) (k : Generator) :
    ∃ p q, p + q = n ∧ (roundState m n k).a = clocks .a n k.a ∧ (roundState m n k).b = clocks .b p k.b ∧
      (roundState m n k).c = clocks .c q k.c := by
  induction n generalizing k with
  | zero => exact ⟨0, 0, rfl, rfl, rfl, rfl⟩
  | succ n ih =>
    obtain ⟨p, q, hsum, ha, hb, hc⟩ := ih (nextBit m k).2
    rw [nextBit_a] at ha
    cases h : peek k.a with
    | false =>
      refine ⟨p, q + 1, by omega, ha, ?_, ?_⟩
      · rw [roundState, hb, nextBit_of_not_took m k h]
      · rw [roundState, hc, nextBit_of_not_took m k h, clocks]
    | true =>
      refine ⟨p + 1, q, by omega, ha, ?_, ?_⟩
      · rw [roundState, hb, nextBit_of_took m k h, clocks]
      · rw [roundState, hc, nextBit_of_took m k h]

/-- Settles O21: the branch a round takes is A's low bit; over the rounds by induction. -/
theorem exactlyOneOfBAndCPerRound : Obligations.ExactlyOneOfBAndCPerRound := by
  unfold Obligations.ExactlyOneOfBAndCPerRound
  refine ⟨fun m k => ⟨nextBit_a m k, fun h => ?_, fun h => ?_⟩, roundState_clocks⟩
  · rw [nextBit_of_took m k h]
    exact ⟨rfl, rfl⟩
  · rw [nextBit_of_not_took m k h]
    exact ⟨rfl, rfl⟩

/-! ### The keystream of a generator -/

/-- The first `n` keystream bits, in the order in which the rounds give them (R92). -/
def keystream (m : SampleMode) (n : Nat) (k : Generator) : List Bool :=
  (List.range n).map fun i => keystreamBit m i k

@[simp] theorem keystream_length (m : SampleMode) (n : Nat) (k : Generator) : (keystream m n k).length = n := by
  simp [keystream]

theorem keystream_succ (m : SampleMode) (n : Nat) (k : Generator) :
    keystream m (n + 1) k = (nextBit m k).1 :: keystream m n (nextBit m k).2 := by
  rw [keystream, List.range_succ_eq_map, List.map_cons, List.map_map]
  rfl

theorem keystream_getD (m : SampleMode) {n i : Nat} (k : Generator) (h : i < n) :
    (keystream m n k).getD i false = keystreamBit m i k := by
  simp [keystream, h]

theorem keystreamBit_add (m : SampleMode) (n i : Nat) (k : Generator) :
    keystreamBit m (n + i) k = keystreamBit m i (roundState m n k) := by
  rw [keystreamBit, roundState_add, keystreamBit]

/-! ### Packing bits into a number, the first highest (R95) -/

/-- The number that a list of bits continues from `a`, one binary digit each. -/
def packBits (a : Nat) (bits : List Bool) : Nat :=
  bits.foldl (fun acc b => 2 * acc + b.toNat) a

theorem packBits_cons (a : Nat) (b : Bool) (bits : List Bool) :
    packBits a (b :: bits) = packBits (2 * a + b.toNat) bits := rfl

theorem packBits_eq_add (a : Nat) (bits : List Bool) :
    packBits a bits = a * 2 ^ bits.length + (BitVec.ofBoolListBE bits).toNat := by
  induction bits generalizing a with
  | nil => exact (Nat.mul_one a).symm
  | cons b bits ih =>
    rw [packBits_cons, ih, BitVec.ofBoolListBE, BitVec.toNat_cons', Nat.shiftLeft_eq, List.length_cons]
    ring

/-- From an empty accumulator the digits are the bits. -/
theorem packBits_zero (bits : List Bool) : packBits 0 bits = (BitVec.ofBoolListBE bits).toNat := by
  rw [packBits_eq_add, zero_mul, zero_add]

/-- One turn of the loop of R95 doubles the accumulator and adds the bit. -/
theorem shiftLeft_or_ofBool_eq_ofNat (a : Nat) (b : Bool) :
    BitVec.ofNat 32 a <<< 1 ||| (BitVec.ofBool b).setWidth 32 = BitVec.ofNat 32 (2 * a + b.toNat) := by
  rw [← Nat.bit_val]
  refine BitVec.eq_of_getLsbD_eq fun i hi => ?_
  rw [BitVec.getLsbD_ofNat]
  cases i with
  | zero => simp
  | succ i =>
    have hi' : i < 32 := Nat.lt_of_succ_lt hi
    rw [BitVec.getLsbD_or, BitVec.getLsbD_shiftLeft, Nat.testBit_bit_succ]
    simp [BitVec.getLsbD_ofNat, -BitVec.getLsbD_eq_getElem, hi']

theorem nextBitsLoop_fst (m : SampleMode) (n a : Nat) (k : Generator) :
    (nextBitsLoop m n (BitVec.ofNat 32 a) k).1 = BitVec.ofNat 32 (packBits a (keystream m n k)) := by
  induction n generalizing a k with
  | zero => rfl
  | succ n ih => rw [nextBitsLoop_succ, shiftLeft_or_ofBool_eq_ofNat, ih, keystream_succ, packBits_cons]

/-- NextBits gives the number whose binary digits are the keystream bits (R95). -/
theorem nextBits_fst_toNat (m : SampleMode) {n : Nat} (k : Generator) (hn : n ≤ 32) :
    (nextBits m n k).1.toNat = packBits 0 (keystream m n k) := by
  have hlt : packBits 0 (keystream m n k) < 2 ^ 32 := by
    rw [packBits_zero]
    exact (BitVec.isLt _).trans_le (Nat.pow_le_pow_right (by decide) (by simpa using hn))
  exact (congrArg BitVec.toNat (nextBitsLoop_fst m n 0 k)).trans (Nat.mod_eq_of_lt hlt)

theorem nextBits_fst_toNat_lt (m : SampleMode) {n : Nat} (k : Generator) (hn : n ≤ 32) :
    (nextBits m n k).1.toNat < 2 ^ n := by
  rw [nextBits_fst_toNat m k hn, packBits_zero]
  simpa using (BitVec.ofBoolListBE (keystream m n k)).isLt

theorem nextBits_fst_getLsbD (m : SampleMode) {n j : Nat} (k : Generator) (hn : n ≤ 32) (hj : j < n) :
    (nextBits m n k).1.getLsbD j = keystreamBit m (n - 1 - j) k := by
  rw [← BitVec.testBit_toNat, nextBits_fst_toNat m k hn, packBits_zero, BitVec.testBit_toNat,
    BitVec.getLsbD_eq_getMsbD, BitVec.getMsbD_ofBoolListBE, keystream_length,
    keystream_getD m k (by omega), decide_eq_true hj, Bool.true_and]

/-- Settles O22: the digits of the packed number are the keystream bits. -/
theorem nextBitsPacksTheFirstBitHighest : Obligations.NextBitsPacksTheFirstBitHighest := by
  unfold Obligations.NextBitsPacksTheFirstBitHighest
  exact fun m n k hn => ⟨nextBits_snd_eq_roundState m n k, nextBits_fst_toNat_lt m k hn,
    fun j hj => nextBits_fst_getLsbD m k hn hj⟩

/-! ### Bytes xor keystream (R97, R98) -/

theorem cryptByte_fst_getLsbD (m : SampleMode) (v : Byte) (k : Generator) {j : Nat} (hj : j < 8) :
    (cryptByte m v k).1.getLsbD (7 - j) = (v.getLsbD (7 - j) ^^ keystreamBit m j k) := by
  have hbit : (nextBits m 8 k).1.getLsbD (7 - j) = keystreamBit m j k := by
    rw [nextBits_fst_getLsbD m k (by decide) (by omega)]
    congr 1
    omega
  have hwidth : 7 - j < 8 := by omega
  rw [cryptByte_eq, byteBits, BitVec.getLsbD_xor, BitVec.getLsbD_setWidth, hbit, decide_eq_true hwidth,
    Bool.true_and]

theorem crypt_fst_getLsbD (m : SampleMode) (buf : List Byte) (k : Generator) {i j : Nat} (hi : i < buf.length)
    (hj : j < 8) : ((crypt m buf k).1.getD i 0).getLsbD (7 - j) =
      ((buf.getD i 0).getLsbD (7 - j) ^^ keystreamBit m (8 * i + j) k) := by
  induction buf generalizing i k with
  | nil => exact absurd hi (Nat.not_lt_zero i)
  | cons v rest ih =>
    rw [crypt_cons]
    cases i with
    | zero => simpa using cryptByte_fst_getLsbD m v k hj
    | succ i =>
      have hround : 8 * (i + 1) + j = 8 + (8 * i + j) := by ring
      rw [List.getD_cons_succ, List.getD_cons_succ, ih _ (Nat.lt_of_succ_lt_succ hi), hround, keystreamBit_add m 8,
        cryptByte_snd_eq_roundState]

/-- The keystream does not depend on the data, so a second CryptByte from the same generator takes it off again. -/
theorem cryptByte_cryptByte_fst (m : SampleMode) (v : Byte) (k : Generator) :
    (cryptByte m (cryptByte m v k).1 k).1 = v := by
  simp [cryptByte_eq]

theorem crypt_crypt_fst (m : SampleMode) (buf : List Byte) (k : Generator) :
    (crypt m (crypt m buf k).1 k).1 = buf := by
  induction buf generalizing k with
  | nil => rfl
  | cons v rest ih =>
    rw [crypt_cons m v, crypt_cons, cryptByte_cryptByte_fst, cryptByte_snd_eq_roundState, cryptByte_snd_eq_roundState,
      ih]

/-- Crypt of two buffers one after the other is Crypt of both at once (R98, R103). -/
theorem crypt_append (m : SampleMode) (x y : List Byte) (k : Generator) :
    crypt m (x ++ y) k =
      ((crypt m x k).1 ++ (crypt m y (crypt m x k).2).1, (crypt m y (crypt m x k).2).2) := by
  induction x generalizing k with
  | nil => rfl
  | cons v rest ih => rw [List.cons_append, crypt_cons, crypt_cons, ih, List.cons_append]

/-! ### What a command does to the generator of its slot -/

/-- A reading command on a generator: E_UNINIT and nothing written unless the registers it reads are loaded (R135). -/
def readIf (loaded : Bool) (k k' : Generator) (out : List Byte) : Generator × Response :=
  if loaded then (k', .ok .none out) else (k, .error .uninit)

/-- The generator a command leaves in its slot and the response it gives, for the commands that address a slot (R23). A
CODEC command addresses none, and what stands for it here is not used. -/
def onSlot (i : Instr) (p : Params) (k : Generator) : Generator × Response :=
  match i with
  | .lfsrLoad _ x seed => (k.setReg x ⟨seed, true⟩, .ok .none [])
  | .lfsrPeek _ x => readIf (k.reg x).loaded k k [bitByte (peek (k.reg x))]
  | .lfsrAdvance _ x =>
    readIf (k.reg x).loaded k (k.setReg x (advance x (k.reg x)).2) [bitByte (advance x (k.reg x)).1]
  | .ksgInit _ key => if key.length = keyLen then (initGen key, .ok .none []) else (k, .error .frame)
  | .ksgNextBit _ => readIf k.loaded k (nextBit p.sampleMode k).2 [bitByte (nextBit p.sampleMode k).1]
  | .ksgNextBits _ n =>
    if n.toNat ≤ nMax then
      readIf k.loaded k (nextBits p.sampleMode n.toNat k).2 (bytesLe32 (nextBits p.sampleMode n.toNat k).1)
    else
      (k, .error .operand)
  | .ksgCryptByte _ v => readIf k.loaded k (cryptByte p.sampleMode v k).2 [(cryptByte p.sampleMode v k).1]
  | .ksgCrypt _ buf =>
    if overMaxLen p.maxLen buf.length then (k, .error .length)
    else readIf k.loaded k (crypt p.sampleMode buf k).2 (crypt p.sampleMode buf k).1
  | .codecRun _ | .codecDecrypt _ | .codecEncrypt _ => (k, .error .operand)

/-- The effect names no slot (R102). -/
theorem onSlot_atSlot (i : Instr) (g : Slot) : onSlot (atSlot g i) = onSlot i := by
  cases i <;> rfl

theorem slotOf_atSlot {i : Instr} {g : Slot} (hi : slotOf i = some g) (h : Slot) : slotOf (atSlot h i) = some h := by
  cases i <;> simp [slotOf, atSlot] at hi ⊢

/-- A reading command on a slot of a state, once its registers are checked. -/
theorem next_readIf (s : State) (g : Slot) (loaded : Bool) (k' : Generator) (out : List Byte) :
    Host.Outcome.next (φ := Fault) (ρ := Refusal) ((s.setSlot g (readIf loaded (s.slot g) k' out).1).respond
      (readIf loaded (s.slot g) k' out).2) =
      if loaded then .next ((s.setSlot g k').respondOk out) else .next (s.refuse .uninit) := by
  cases loaded <;> simp [readIf, State.respondOk_eq, State.refuse_eq]

/-- `onSlot` is what `exec` does, for every command that addresses a slot. -/
theorem exec_eq_onSlot {i : Instr} {g : Slot} (hi : slotOf i = some g) (s : State) :
    exec i s = .next ((s.setSlot g (onSlot i s.params (s.slot g)).1).respond (onSlot i s.params (s.slot g)).2) := by
  cases i with
  | lfsrLoad g x seed =>
    cases hi
    rfl
  | lfsrPeek g x =>
    cases hi
    rw [onSlot, next_readIf, State.setSlot_slot_self]
    rfl
  | lfsrAdvance g x =>
    cases hi
    rw [onSlot, next_readIf]
    rfl
  | ksgInit g key =>
    cases hi
    by_cases hlen : key.length = keyLen
    · simp [exec, execKsgInit, onSlot, hlen, State.initSlot_eq, State.respondOk_eq]
    · simp [exec, execKsgInit, onSlot, hlen, State.refuse_eq]
  | ksgNextBit g =>
    cases hi
    rw [onSlot, next_readIf]
    rfl
  | ksgNextBits g n =>
    cases hi
    by_cases hn : n.toNat ≤ nMax
    · rw [onSlot, if_pos hn, next_readIf]
      exact if_pos hn
    · simp [exec, execKsgNextBits, onSlot, hn, State.refuse_eq]
  | ksgCryptByte g v =>
    cases hi
    rw [onSlot, next_readIf]
    rfl
  | ksgCrypt g buf =>
    cases hi
    by_cases hm : overMaxLen s.params.maxLen buf.length = true
    · simp [exec, execKsgCrypt, onSlot, hm, State.refuse_eq]
    · rw [onSlot, if_neg hm, next_readIf]
      exact if_neg hm
  | codecRun input => cases hi
  | codecDecrypt input => cases hi
  | codecEncrypt input => cases hi

theorem exec_of_onSlot {i : Instr} {g : Slot} {s : State} {k' : Generator} {r : Response} (hi : slotOf i = some g)
    (h : onSlot i s.params (s.slot g) = (k', r)) : exec i s = .next ((s.setSlot g k').respond r) := by
  rw [exec_eq_onSlot hi, h]

/-! ### Output commands on a loaded generator -/

theorem Generator.loaded_iff (k : Generator) : k.loaded = true ↔ ∀ x, (k.reg x).loaded = true := by
  rw [Generator.loaded, Bool.and_eq_true, Bool.and_eq_true]
  constructor
  · rintro ⟨⟨ha, hb⟩, hc⟩ x
    cases x <;> assumption
  · exact fun h => ⟨⟨h .a, h .b⟩, h .c⟩

theorem AllLoaded.slot_loaded {s : State} {g : Slot} (h : AllLoaded s g) : (s.slot g).loaded = true :=
  (s.slot g).loaded_iff.mpr h

/-- Rounds load nothing and unload nothing (R88). -/
@[simp] theorem roundState_loaded (m : SampleMode) (n : Nat) (k : Generator) :
    (roundState m n k).loaded = k.loaded := by
  induction n generalizing k with
  | zero => rfl
  | succ n ih =>
    rw [roundState, ih, Bool.eq_iff_iff, Generator.loaded_iff, Generator.loaded_iff]
    simp

section
variable {g : Slot} {p : Params} {k : Generator}

theorem onSlot_ksgNextBit (hl : k.loaded = true) :
    onSlot (.ksgNextBit g) p k =
      ((nextBit p.sampleMode k).2, .ok .none [bitByte (nextBit p.sampleMode k).1]) := by
  rw [onSlot, readIf, if_pos hl]

theorem onSlot_ksgNextBits {n : Byte} (hn : n.toNat ≤ nMax) (hl : k.loaded = true) :
    onSlot (.ksgNextBits g n) p k =
      (roundState p.sampleMode n.toNat k, .ok .none (bytesLe32 (nextBits p.sampleMode n.toNat k).1)) := by
  rw [onSlot, readIf, if_pos hl, if_pos hn, nextBits_snd_eq_roundState]

theorem onSlot_ksgCryptByte {v : Byte} (hl : k.loaded = true) :
    onSlot (.ksgCryptByte g v) p k =
      (roundState p.sampleMode 8 k, .ok .none [(cryptByte p.sampleMode v k).1]) := by
  rw [onSlot, readIf, if_pos hl, cryptByte_snd_eq_roundState]

theorem onSlot_ksgCrypt {buf : List Byte} (hm : overMaxLen p.maxLen buf.length = false) (hl : k.loaded = true) :
    onSlot (.ksgCrypt g buf) p k =
      (roundState p.sampleMode (8 * buf.length) k, .ok .none (crypt p.sampleMode buf k).1) := by
  rw [onSlot, readIf, if_pos hl, hm, crypt_snd_eq_roundState]
  rfl

end

/-- Settles O25: the command is CryptByte on the generator of its slot, whose bits are those of the rounds. -/
theorem cryptByteXorsEightBits : Obligations.CryptByteXorsEightBits := by
  unfold Obligations.CryptByteXorsEightBits
  intro g v s hl
  exact ⟨_, _, exec_of_onSlot rfl (onSlot_ksgCryptByte hl.slot_loaded),
    fun j hj => cryptByte_fst_getLsbD _ v _ hj, by simp,
    setSlot_respond_otherSlotKept _ _ _ _, setSlot_respond_sameRest .., setSlot_respond_answered ..⟩

/-- Settles O26: the command is Crypt on the generator of its slot, whose bits are those of the rounds. -/
theorem cryptXorsTheKeystream : Obligations.CryptXorsTheKeystream := by
  unfold Obligations.CryptXorsTheKeystream
  intro g buf s hm hl
  exact ⟨_, _, exec_of_onSlot rfl (onSlot_ksgCrypt hm hl.slot_loaded), crypt_length ..,
    fun i hi j hj => crypt_fst_getLsbD _ buf _ hi hj, by simp,
    setSlot_respond_otherSlotKept _ _ _ _, setSlot_respond_sameRest .., setSlot_respond_answered ..⟩

/-! ### KSG.CRYPT is its own inverse (R101) -/

/-- Refused or not, KSG.CRYPT leaves a generator that depends on the length of the data alone. -/
theorem onSlot_ksgCrypt_fst_of_length_eq (g : Slot) {buf buf' : List Byte} (p : Params) (k : Generator)
    (h : buf'.length = buf.length) : (onSlot (.ksgCrypt g buf') p k).1 = (onSlot (.ksgCrypt g buf) p k).1 := by
  simp only [onSlot, h, crypt_snd_eq_roundState, readIf]
  split
  · rfl
  · split <;> rfl

/-- Settles O27: the second Crypt takes off the keystream the first put on. -/
theorem cryptIsSelfInverse : Obligations.CryptIsSelfInverse := by
  unfold Obligations.CryptIsSelfInverse
  refine ⟨fun g P s s' hl hslot hparams hm => ?_, fun g buf buf' s t t' hlen ht ht' => ?_⟩
  · have hm' : overMaxLen s'.params.maxLen (crypt s.params.sampleMode P (s.slot g)).1.length = false := by
      rw [crypt_length, hparams, hm]
    refine ⟨_, _, _, exec_of_onSlot rfl (onSlot_ksgCrypt hm hl.slot_loaded), setSlot_respond_answered ..,
      exec_of_onSlot rfl (onSlot_ksgCrypt hm' (hslot ▸ hl.slot_loaded)), ?_⟩
    rw [hslot, hparams, crypt_crypt_fst]
    exact setSlot_respond_answered ..
  · cases ht.symm.trans (exec_eq_onSlot rfl s)
    cases ht'.symm.trans (exec_eq_onSlot rfl s)
    simp [onSlot_ksgCrypt_fst_of_length_eq g _ _ hlen]

/-! ### A run of commands on one slot -/

/-- The generator after the commands of a list and their responses, the oldest first. -/
def runOnSlot (p : Params) : List Instr → Generator → Generator × List Response
  | [], k => (k, [])
  | i :: rest, k =>
    ((runOnSlot p rest (onSlot i p k).1).1, (onSlot i p k).2 :: (runOnSlot p rest (onSlot i p k).1).2)

theorem runOnSlot_cons (p : Params) (i : Instr) (rest : List Instr) (k : Generator) :
    runOnSlot p (i :: rest) k =
      ((runOnSlot p rest (onSlot i p k).1).1, (onSlot i p k).2 :: (runOnSlot p rest (onSlot i p k).1).2) := rfl

/-- `runOnSlot` is what `execAll` does, for commands that address one slot. -/
theorem execAll_eq_runOnSlot {g : Slot} {cs : List Instr} (hcs : ∀ c ∈ cs, slotOf c = some g) (s : State) :
    ∃ t, execAll cs s = some t ∧ t.slot g = (runOnSlot s.params cs (s.slot g)).1 ∧
      t.responses = s.responses ++ (runOnSlot s.params cs (s.slot g)).2 := by
  induction cs generalizing s with
  | nil => exact ⟨s, rfl, rfl, (List.append_nil _).symm⟩
  | cons c cs ih =>
    obtain ⟨hc, hrest⟩ := List.forall_mem_cons.mp hcs
    obtain ⟨t, ht, hslot, hresponses⟩ :=
      ih hrest ((s.setSlot g (onSlot c s.params (s.slot g)).1).respond (onSlot c s.params (s.slot g)).2)
    refine ⟨t, by rw [execAll, exec_eq_onSlot hc]; exact ht, ?_, ?_⟩
    · simpa [runOnSlot_cons] using hslot
    · simpa [runOnSlot_cons] using hresponses

theorem runOnSlot_map_atSlot (g : Slot) (p : Params) (cs : List Instr) (k : Generator) :
    runOnSlot p (cs.map (atSlot g)) k = runOnSlot p cs k := by
  induction cs generalizing k with
  | nil => rfl
  | cons c cs ih => rw [List.map_cons, runOnSlot_cons, runOnSlot_cons, onSlot_atSlot, ih]

/-- After KSG.INIT nothing depends on what the slot held before (R90). -/
theorem runOnSlot_ksgInit (g : Slot) {key : List Byte} (hkey : key.length = keyLen) (p : Params) (cs : List Instr)
    (k : Generator) : runOnSlot p (.ksgInit g key :: cs) k =
      ((runOnSlot p cs (initGen key)).1, .ok .none [] :: (runOnSlot p cs (initGen key)).2) := by
  rw [runOnSlot_cons, onSlot, if_pos hkey]

/-- Settles O28: both runs are the run of the same commands on the generator that the key gives. -/
theorem sameKeySameAnswers : Obligations.SameKeySameAnswers := by
  unfold Obligations.SameKeySameAnswers
  intro g g' key cs s s' hkey hparams hcs
  have hcs' : ∀ c ∈ cs.map (atSlot g'), slotOf c = some g' := by
    rintro _ hc
    obtain ⟨c, hmem, rfl⟩ := List.mem_map.mp hc
    exact slotOf_atSlot (hcs c hmem) g'
  obtain ⟨t, ht, hslot, hresponses⟩ :=
    execAll_eq_runOnSlot (cs := .ksgInit g key :: cs) (List.forall_mem_cons.mpr ⟨rfl, hcs⟩) s
  obtain ⟨t', ht', hslot', hresponses'⟩ :=
    execAll_eq_runOnSlot (cs := .ksgInit g' key :: cs.map (atSlot g')) (List.forall_mem_cons.mpr ⟨rfl, hcs'⟩) s'
  rw [runOnSlot_ksgInit g hkey] at hslot hresponses
  rw [runOnSlot_ksgInit g' hkey, runOnSlot_map_atSlot, hparams] at hslot' hresponses'
  exact ⟨t, t', _, ht, ht', hresponses, hresponses', hslot'.trans hslot.symm⟩

/-! ### One stream at four grains (R103) -/

theorem runOnSlot_ksgCryptByte (g : Slot) (p : Params) (buf : List Byte) {k : Generator} (hl : k.loaded = true) :
    runOnSlot p (buf.map (.ksgCryptByte g)) k =
      (roundState p.sampleMode (8 * buf.length) k, (crypt p.sampleMode buf k).1.map fun o => .ok .none [o]) := by
  induction buf generalizing k with
  | nil => rfl
  | cons v rest ih =>
    have hrounds : 8 * (rest.length + 1) = 8 + 8 * rest.length := by ring
    rw [List.map_cons, runOnSlot_cons, onSlot_ksgCryptByte hl, ih (by simpa using hl), crypt_cons,
      cryptByte_snd_eq_roundState, List.length_cons, hrounds, roundState_add, List.map_cons]

theorem runOnSlot_ksgNextBit (g : Slot) (p : Params) (n : Nat) {k : Generator} (hl : k.loaded = true) :
    runOnSlot p (List.replicate n (.ksgNextBit g)) k =
      (roundState p.sampleMode n k, (keystream p.sampleMode n k).map fun b => .ok .none [bitByte b]) := by
  induction n generalizing k with
  | zero => rfl
  | succ n ih =>
    have hl' : (nextBit p.sampleMode k).2.loaded = true := by
      simpa [roundState] using (roundState_loaded p.sampleMode 1 k).trans hl
    rw [List.replicate_succ, runOnSlot_cons, onSlot_ksgNextBit hl, ih hl', keystream_succ, List.map_cons, roundState]

theorem littleEndian_bytesLe32 (w : Word) :
    littleEndian (w.extractLsb' 0 8) (w.extractLsb' 8 8) (w.extractLsb' 16 8) (w.extractLsb' 24 8) = w.toNat := by
  simp only [littleEndian, BitVec.extractLsb'_toNat, Nat.shiftRight_eq_div_pow]
  omega

theorem bytesLe32_of_lt {w : Word} (h : w.toNat < 2 ^ 8) : bytesLe32 w = [w.setWidth 8, 0x00, 0x00, 0x00] := by
  simp only [bytesLe32, List.cons.injEq, ← BitVec.toNat_inj, BitVec.extractLsb'_toNat, Nat.shiftRight_eq_div_pow]
  simp
  omega

theorem overMaxLen_of_le {maxLen : Option Nat} {n n' : Nat} (h : n ≤ n') (hm : overMaxLen maxLen n' = false) :
    overMaxLen maxLen n = false := by
  cases maxLen with
  | none => rfl
  | some m =>
    simp only [overMaxLen, decide_eq_false_iff_not] at hm ⊢
    omega

/-- Crypt is one CryptByte a byte. -/
theorem ksgCrypt_eq_ksgCryptBytes (g : Slot) (buf : List Byte) (s : State) (hl : AllLoaded s g)
    (hm : overMaxLen s.params.maxLen buf.length = false) :
    ∃ t t' out, exec (.ksgCrypt g buf) s = .next t ∧ Answered s t (.ok .none out) ∧
      execAll (buf.map (.ksgCryptByte g)) s = some t' ∧
      t'.responses = s.responses ++ out.map (fun o => .ok .none [o]) ∧ t'.slot g = t.slot g := by
  have hcs : ∀ c ∈ buf.map (Instr.ksgCryptByte g), slotOf c = some g := by simp [slotOf]
  obtain ⟨t', ht', hslot, hresponses⟩ := execAll_eq_runOnSlot hcs s
  rw [runOnSlot_ksgCryptByte g _ buf hl.slot_loaded] at hslot hresponses
  exact ⟨_, t', _, exec_of_onSlot rfl (onSlot_ksgCrypt hm hl.slot_loaded), setSlot_respond_answered .., ht',
    hresponses, by simp [hslot]⟩

/-- CryptByte is an xor with NextBits of 8. -/
theorem ksgCryptByte_eq_ksgNextBits (g : Slot) (v : Byte) (s : State) (hl : AllLoaded s g) :
    ∃ t t' ks, exec (.ksgNextBits g 8) s = .next t ∧ Answered s t (.ok .none [ks, 0x00, 0x00, 0x00]) ∧
      exec (.ksgCryptByte g v) s = .next t' ∧ Answered s t' (.ok .none [v ^^^ ks]) ∧ t'.slot g = t.slot g := by
  have hbits := onSlot_ksgNextBits (g := g) (p := s.params) (n := 8) (by decide) hl.slot_loaded
  have h8 : (8 : Byte).toNat = 8 := rfl
  rw [h8, bytesLe32_of_lt (nextBits_fst_toNat_lt _ _ (by decide))] at hbits
  exact ⟨_, _, _, exec_of_onSlot rfl hbits, setSlot_respond_answered ..,
    exec_of_onSlot rfl (onSlot_ksgCryptByte hl.slot_loaded), setSlot_respond_answered .., by simp⟩

/-- NextBits is one NextBit a bit. -/
theorem ksgNextBits_eq_ksgNextBit (g : Slot) (n : Byte) (s : State) (hl : AllLoaded s g) (hn : n.toNat ≤ 32) :
    ∃ (t t' : State) (b0 b1 b2 b3 : Byte) (bits : List Bool), exec (.ksgNextBits g n) s = .next t ∧
      Answered s t (.ok .none [b0, b1, b2, b3]) ∧
      execAll (List.replicate n.toNat (.ksgNextBit g)) s = some t' ∧ bits.length = n.toNat ∧
      t'.responses = s.responses ++ bits.map (fun b => .ok .none [if b then 0x01 else 0x00]) ∧
      littleEndian b0 b1 b2 b3 = bits.foldl (fun acc b => 2 * acc + b.toNat) 0 ∧ t'.slot g = t.slot g := by
  have hcs : ∀ c ∈ List.replicate n.toNat (Instr.ksgNextBit g), slotOf c = some g := by
    intro c hc
    rw [List.eq_of_mem_replicate hc, slotOf]
  obtain ⟨t', ht', hslot, hresponses⟩ := execAll_eq_runOnSlot hcs s
  rw [runOnSlot_ksgNextBit g _ n.toNat hl.slot_loaded] at hslot hresponses
  exact ⟨_, t', _, _, _, _, _, exec_of_onSlot rfl (onSlot_ksgNextBits hn hl.slot_loaded),
    setSlot_respond_answered .., ht', keystream_length .., hresponses,
    (littleEndian_bytesLe32 _).trans (nextBits_fst_toNat _ _ hn), by simp [hslot]⟩

/-- Crypt of two buffers is one Crypt after the other. -/
theorem ksgCrypt_append_eq_ksgCrypts (g : Slot) (x y : List Byte) (s : State) (hl : AllLoaded s g)
    (hm : overMaxLen s.params.maxLen (x ++ y).length = false) :
    ∃ t u v o1 o2, exec (.ksgCrypt g x) s = .next t ∧ Answered s t (.ok .none o1) ∧ o1.length = x.length ∧
      exec (.ksgCrypt g y) t = .next u ∧ Answered t u (.ok .none o2) ∧
      exec (.ksgCrypt g (x ++ y)) s = .next v ∧ Answered s v (.ok .none (o1 ++ o2)) ∧ v.slot g = u.slot g := by
  have hx : overMaxLen s.params.maxLen x.length = false := overMaxLen_of_le (by simp) hm
  have hy : overMaxLen s.params.maxLen y.length = false := overMaxLen_of_le (by simp) hm
  have hboth := onSlot_ksgCrypt (g := g) hm hl.slot_loaded
  rw [crypt_append, crypt_snd_eq_roundState, List.length_append, mul_add, roundState_add] at hboth
  refine ⟨_, _, _, _, _, exec_of_onSlot rfl (onSlot_ksgCrypt hx hl.slot_loaded), setSlot_respond_answered ..,
    crypt_length .., exec_of_onSlot rfl (onSlot_ksgCrypt (by simpa using hy) (by simpa using hl.slot_loaded)),
    setSlot_respond_answered .., exec_of_onSlot rfl hboth, ?_, by simp⟩
  simp [Answered]

/-- Settles O29: each coarser command is a run of the next finer one on the same generator. -/
theorem fourGrainsOfOneStream : Obligations.FourGrainsOfOneStream := by
  unfold Obligations.FourGrainsOfOneStream
  exact ⟨ksgCrypt_eq_ksgCryptBytes, ksgCryptByte_eq_ksgNextBits, ksgNextBits_eq_ksgNextBit,
    ksgCrypt_append_eq_ksgCrypts⟩

end Sys2Proof.Machine
end

section
/-! PROOFS. The family 42_codec.md: the container (R36, R112 to R117). The fields of a container are read off once, at
their offsets; that Decrypt undoes Encrypt, the lengths and the shape of the header follow from them. -/

namespace Sys2Proof.Machine

/-! ### The random source -/

theorem State.draw_succ_fst (n : Nat) (s : State) :
    (s.draw (n + 1)).1 = (s.draw 1).1 ++ ((s.draw 1).2.draw n).1 := rfl

theorem State.draw_one_fst (s : State) : (s.draw 1).1 = [s.nextRandom 0] := by
  cases h : s.rnd <;> simp [State.draw, State.drawByte, State.nextRandom, h]

theorem State.nextRandom_draw_snd (n i : Nat) (s : State) : (s.draw n).2.nextRandom i = s.nextRandom (n + i) := by
  simp [State.nextRandom, State.draw_snd, List.getElem?_drop, Nat.add_assoc]

/-- The draws after `n` draws go on where those ended (R38). -/
theorem State.randomBytes_draw_snd (n lo count : Nat) (s : State) :
    (s.draw n).2.randomBytes lo count = s.randomBytes (n + lo) count := by
  simp [State.randomBytes, State.nextRandom_draw_snd, Nat.add_assoc]

theorem State.randomBytes_length (lo count : Nat) (s : State) : (s.randomBytes lo count).length = count := by
  simp [State.randomBytes]

/-- What `n` draws give (R38). -/
theorem State.draw_fst (n : Nat) (s : State) : (s.draw n).1 = s.randomBytes 0 n := by
  induction n generalizing s with
  | zero => rfl
  | succ n ih =>
    rw [State.draw_succ_fst, State.draw_one_fst, ih, State.randomBytes_draw_snd]
    simp [State.randomBytes, List.range_succ_eq_map, Nat.add_comm]

/-! ### The fields of a container (R36) -/

/-- A part of a sequence is read back at the offset where it stands (R31). -/
theorem slice_middle {x part z : List Byte} {lo hi : Nat} (hlo : x.length = lo) (hhi : lo + part.length = hi) :
    slice (x ++ (part ++ z)) lo hi = part := by
  subst hlo hhi
  simp [slice]

section
variable {m : SampleMode} {key pad input : List Byte}

theorem magicBytes_prefix_containerOf : magicBytes <+: containerOf m key pad input := by
  simp only [containerOf, containerHeader, List.append_assoc]
  exact List.prefix_append magic _

theorem containerHeader_length {wrapped : List Byte} (hpad : pad.length = 48) (hwrapped : wrapped.length = 12) :
    (containerHeader pad wrapped).length = hdrLen := by
  simp [containerHeader, hpad, hwrapped, magic, rsvLen, kek, keyLen, hdrLen]

theorem containerOf_length (hkey : key.length = 12) (hpad : pad.length = 48) :
    (containerOf m key pad input).length = hdrLen + input.length := by
  rw [containerOf, List.length_append, containerHeader_length hpad (by rw [crypt_length, hkey]), crypt_length]

theorem containerOf_slice_pad (hpad : pad.length = 48) : slice (containerOf m key pad input) 28 76 = pad := by
  simp only [containerOf, containerHeader, List.append_assoc]
  exact slice_middle rfl (by rw [hpad])

theorem containerOf_slice_reserved (hpad : pad.length = 48) :
    slice (containerOf m key pad input) 76 80 = List.replicate rsvLen 0x00 := by
  simp only [containerOf, containerHeader, List.append_assoc]
  rw [← List.append_assoc magic]
  exact slice_middle (by simp [magic, hpad]) rfl

theorem containerOf_slice_kek (hpad : pad.length = 48) : slice (containerOf m key pad input) 80 92 = kek := by
  simp only [containerOf, containerHeader, List.append_assoc]
  rw [← List.append_assoc magic, ← List.append_assoc (magic ++ pad)]
  exact slice_middle (by simp [magic, hpad, rsvLen]) rfl

theorem containerOf_slice_wrapped (hkey : key.length = 12) (hpad : pad.length = 48) :
    slice (containerOf m key pad input) 92 104 = (crypt m key (initGen kek)).1 := by
  rw [containerOf, containerHeader, List.append_assoc _ (crypt m key (initGen kek)).1]
  exact slice_middle (by simp [magic, hpad, rsvLen, kek, keyLen]) (by rw [crypt_length, hkey])

theorem containerOf_drop_hdrLen (hkey : key.length = 12) (hpad : pad.length = 48) :
    (containerOf m key pad input).drop hdrLen = (crypt m input (initGen key)).1 :=
  List.drop_left' (containerHeader_length hpad (by rw [crypt_length, hkey]))

/-- Decrypt unwraps the key that Encrypt wrapped, and takes off the keystream that Encrypt put on (R114). -/
theorem plaintextOf_containerOf (hkey : key.length = 12) (hpad : pad.length = 48) :
    plaintextOf m (containerOf m key pad input) = input := by
  rw [plaintextOf, containerOf_slice_kek hpad, containerOf_slice_wrapped hkey hpad,
    containerOf_drop_hdrLen hkey hpad, crypt_crypt_fst, crypt_crypt_fst]

end

/-! ### What the CODEC commands answer -/

section
variable {s t : State} {input P C : List Byte}

/-- The container that Encrypt makes of a payload: the next 12 random bytes are the key and the 48 after them the
padding (R113). -/
def State.drawnContainer (s : State) (payload : List Byte) : List Byte :=
  containerOf s.params.sampleMode (s.randomBytes 0 12) (s.randomBytes 12 48) payload

theorem State.drawnContainer_length (s : State) (payload : List Byte) :
    (s.drawnContainer payload).length = hdrLen + payload.length :=
  containerOf_length (s.randomBytes_length 0 12) (s.randomBytes_length 12 48)

theorem State.magicBytes_prefix_drawnContainer (s : State) (payload : List Byte) :
    magicBytes <+: s.drawnContainer payload :=
  magicBytes_prefix_containerOf

theorem State.plaintextOf_drawnContainer (s : State) (payload : List Byte) :
    plaintextOf s.params.sampleMode (s.drawnContainer payload) = payload :=
  plaintextOf_containerOf (s.randomBytes_length 0 12) (s.randomBytes_length 12 48)

theorem State.containerOf_draws (s : State) (payload : List Byte) :
    containerOf s.params.sampleMode (s.draw keyLen).1 ((s.draw keyLen).2.draw padLen).1 payload =
      s.drawnContainer payload := by
  rw [State.draw_fst, State.draw_fst, State.randomBytes_draw_snd]
  rfl

@[simp] theorem State.afterDraws_params (s : State) : s.afterDraws.params = s.params := by
  rw [State.afterDraws_eq, State.unloadAll_params]

theorem State.afterDraws_respond_answered (s : State) (r : Response) : Answered s (s.afterDraws.respond r) r := by
  rw [Answered, State.respond_responses, State.afterDraws_eq, State.unloadAll_responses]

theorem State.unloadAll_respond_answered (s : State) (r : Response) : Answered s (s.unloadAll.respond r) r := rfl

theorem State.refuse_answered (s : State) (e : Error) : Answered s (s.refuse e) (.error e) := rfl

theorem exec_codecEncrypt_of_fits (hm : overMaxLen s.params.maxLen P.length = false) :
    exec (.codecEncrypt P) s = .next (s.afterDraws.respond (.ok .encrypt (s.drawnContainer P))) := by
  rw [exec, execCodecEncrypt, State.encryptCommand, hm, State.encryptPayload_eq, State.containerOf_draws]
  rfl

theorem decryptCommand_of_container (hmagic : magicBytes <+: C) (hlen : hdrLen ≤ C.length)
    (hm : overMaxLen s.params.maxLen (C.length - hdrLen) = false) :
    s.decryptCommand C = s.unloadAll.respond (.ok .decrypt (plaintextOf s.params.sampleMode C)) := by
  rw [State.decryptCommand, if_pos ((hasMagic_iff C).mpr hmagic), if_neg (by omega), hm, State.decryptContainer_eq]
  rfl

theorem decryptCommand_of_magic_short (hmagic : magicBytes <+: input) (hlen : input.length < hdrLen) :
    s.decryptCommand input = s.refuse .malformedContainer := by
  rw [State.decryptCommand, if_pos ((hasMagic_iff input).mpr hmagic), if_pos hlen]

theorem decryptCommand_of_not_magic (hmagic : ¬ magicBytes <+: input) :
    s.decryptCommand input = s.refuse .notContainer := by
  rw [State.decryptCommand, if_neg (mt (hasMagic_iff input).mp hmagic)]

theorem exec_codecRun_of_magic (hmagic : magicBytes <+: input) :
    exec (.codecRun input) s = exec (.codecDecrypt input) s := by
  rw [exec, execCodecRun, if_pos ((hasMagic_iff input).mpr hmagic), exec, execCodecDecrypt]

theorem exec_codecRun_of_not_magic (hmagic : ¬ magicBytes <+: input) :
    exec (.codecRun input) s = exec (.codecEncrypt input) s := by
  rw [exec, execCodecRun, if_neg (mt (hasMagic_iff input).mp hmagic), exec, execCodecEncrypt]

/-- An Encrypt that answers OK answers the container of its draws. -/
theorem eq_drawnContainer_of_encrypt (ht : exec (.codecEncrypt P) s = .next t)
    (ha : Answered s t (.ok .encrypt C)) : C = s.drawnContainer P := by
  obtain h | h := s.encryptCommand_cases P <;> cases ht.symm.trans (congrArg Host.Outcome.next h)
  · cases ha.unique (s.refuse_answered .length)
  · rw [State.containerOf_draws] at ha
    cases ha.unique (s.afterDraws_respond_answered _)
    rfl

/-- A Decrypt that answers OK was given a whole header and answers its plaintext. -/
theorem container_of_decrypt (ht : exec (.codecDecrypt C) s = .next t) (ha : Answered s t (.ok .decrypt P)) :
    hdrLen ≤ C.length ∧ P = plaintextOf s.params.sampleMode C := by
  have hrefuse (e : Error) : s.decryptCommand C ≠ s.refuse e := by
    intro h
    cases ht.symm.trans (congrArg Host.Outcome.next h)
    cases ha.unique (s.refuse_answered e)
  constructor
  · by_contra hlen
    by_cases hmagic : magicBytes <+: C
    · exact hrefuse _ (decryptCommand_of_magic_short hmagic (Nat.lt_of_not_le hlen))
    · exact hrefuse _ (decryptCommand_of_not_magic hmagic)
  · obtain h | h | h | h := s.decryptCommand_cases C
    · exact absurd h (hrefuse _)
    · exact absurd h (hrefuse _)
    · exact absurd h (hrefuse _)
    · cases ht.symm.trans (congrArg Host.Outcome.next h)
      cases ha.unique (s.unloadAll_respond_answered _)
      rfl

/-- From any state with the same parameters, CODEC.DECRYPT of the container that Encrypt made answers the payload
(R114). -/
theorem exec_codecDecrypt_drawnContainer (hparams : t.params = s.params)
    (hm : overMaxLen s.params.maxLen P.length = false) :
    exec (.codecDecrypt (s.drawnContainer P)) t = .next (t.unloadAll.respond (.ok .decrypt P)) := by
  have hlen := s.drawnContainer_length P
  have hfits : overMaxLen t.params.maxLen ((s.drawnContainer P).length - hdrLen) = false := by
    rw [hparams, hlen, Nat.add_sub_cancel_left, hm]
  rw [exec, execCodecDecrypt, decryptCommand_of_container (s.magicBytes_prefix_drawnContainer P) (by omega) hfits,
    hparams, s.plaintextOf_drawnContainer]

end

/-- Encrypt and then Decrypt: the container has the magic, and the second answer is the payload (R114). -/
theorem exec_codecDecrypt_after_codecEncrypt (P : List Byte) (s : State)
    (hm : overMaxLen s.params.maxLen P.length = false) :
    ∃ t u C, exec (.codecEncrypt P) s = .next t ∧ Answered s t (.ok .encrypt C) ∧ magicBytes <+: C ∧
      exec (.codecDecrypt C) t = .next u ∧ Answered t u (.ok .decrypt P) :=
  ⟨_, _, _, exec_codecEncrypt_of_fits hm, s.afterDraws_respond_answered _, s.magicBytes_prefix_drawnContainer P,
    exec_codecDecrypt_drawnContainer (by simp) hm, State.unloadAll_respond_answered _ _⟩

/-- Settles O40: CODEC.DECRYPT undoes CODEC.ENCRYPT, and CODEC.RUN is one or the other by the magic. -/
theorem containerRoundTrip : Obligations.ContainerRoundTrip := by
  unfold Obligations.ContainerRoundTrip
  refine ⟨fun P s hm => ?_, fun P s hm hmagic => ?_, fun P C s t hmagic ht => ?_⟩
  · obtain ⟨t, u, C, ht, hC, hmagicC, hu, hP⟩ := exec_codecDecrypt_after_codecEncrypt P s hm
    exact ⟨t, u, u, C, ht, hC, hu, hP, (exec_codecRun_of_magic hmagicC).trans hu, hP⟩
  · obtain ⟨t, u, C, ht, hC, hmagicC, hu, hP⟩ := exec_codecDecrypt_after_codecEncrypt P s hm
    exact ⟨t, u, C, (exec_codecRun_of_not_magic hmagic).trans ht, hC, (exec_codecRun_of_magic hmagicC).trans hu, hP⟩
  · cases ht.symm.trans (exec_codecRun_of_magic hmagic)
    refine ⟨fun ha => ?_, fun hlen => ?_⟩
    · obtain ⟨-, ⟨e, he⟩ | ⟨out, hok⟩⟩ := decryptCommand_answersIn s P
      · cases ha.unique he
      · cases ha.unique hok
    · rw [decryptCommand_of_magic_short hmagic hlen]
      exact s.refuse_answered .malformedContainer

/-- Settles O41: the container is the header and as many bytes as the payload, and Decrypt drops the header. -/
theorem lengthsArePreserved : Obligations.LengthsArePreserved := by
  unfold Obligations.LengthsArePreserved
  refine ⟨fun P C s t ht ha => ?_, fun C P s t ht ha => ?_⟩
  · rw [eq_drawnContainer_of_encrypt ht ha, State.drawnContainer_length, hdrLen]
  · obtain ⟨hlen, rfl⟩ := container_of_decrypt ht ha
    exact ⟨hlen, by rw [plaintextOf, crypt_length, List.length_drop, hdrLen]⟩

/-- Settles O42: the four fields stand at their offsets in the container that Encrypt builds. -/
theorem headerHasItsShape : Obligations.HeaderHasItsShape := by
  unfold Obligations.HeaderHasItsShape
  intro P C s t ht ha
  rw [eq_drawnContainer_of_encrypt ht ha]
  have hpad := s.randomBytes_length 12 48
  exact ⟨(List.prefix_iff_eq_take.mp magicBytes_prefix_containerOf).symm, containerOf_slice_pad hpad,
    containerOf_slice_reserved hpad, containerOf_slice_kek hpad⟩

/-! ### The concrete vector (R117) -/

/-- The ascending bytes under the generator of the all-zero key, in both sampling modes (R117). -/
theorem crypt_ascending_initGen_zero :
    (crypt .post [0x00, 0x01, 0x02, 0x03, 0x04, 0x05, 0x06, 0x07, 0x08, 0x09, 0x0A, 0x0B]
      (initGen (List.replicate 12 0x00))).1 =
        [0xFD, 0xEF, 0x1A, 0xAE, 0x06, 0x5B, 0x9E, 0x5C, 0x1B, 0x82, 0x01, 0x12] ∧
    (crypt .pre [0x00, 0x01, 0x02, 0x03, 0x04, 0x05, 0x06, 0x07, 0x08, 0x09, 0x0A, 0x0B]
      (initGen (List.replicate 12 0x00))).1 =
        [0xFE, 0xF6, 0x0E, 0x55, 0x85, 0x2A, 0x4A, 0x2A, 0x81, 0xCC, 0x8F, 0x87] := by
  decide

/-- Settles O43: the second command is Crypt on the generator of the all-zero key, evaluated in both modes. -/
theorem concreteVector : Obligations.ConcreteVector := by
  unfold Obligations.ConcreteVector
  intro g s hm
  obtain ⟨t, ht, -, hresponses⟩ := execAll_eq_runOnSlot (g := g) (cs := [.ksgInit g (List.replicate 12 0x00),
    .ksgCrypt g [0x00, 0x01, 0x02, 0x03, 0x04, 0x05, 0x06, 0x07, 0x08, 0x09, 0x0A, 0x0B]]) (by simp [slotOf]) s
  rw [runOnSlot_ksgInit g rfl, runOnSlot_cons, onSlot_ksgCrypt hm (initGen_loaded _), runOnSlot] at hresponses
  refine ⟨t, ht, fun hpost => ?_, fun hpre => ?_⟩
  · rw [hresponses, hpost, crypt_ascending_initGen_zero.1]
  · rw [hresponses, hpre, crypt_ascending_initGen_zero.2]

end Sys2Proof.Machine
end

section
/-! PROOFS. The family 60_exceptions.md: the status of a frame (R131 to R138) and what a refusal leaves (R140).
`refusalOf` says of every command which error refuses it, if one does, and `exec_endsWith` ties it to `exec`;
`commandOf` says which command operands of a legal form stand for, and `decodeOperands_eq` ties it to the decoder. O18
and O6 are read off the first, O5 off both. -/

namespace Sys2Proof.Machine

/-! ### How a command ends -/

/-- From `s` to `t` a command was refused with the given error (R140), or answered OK when no error is given. -/
def Ended (s t : State) : Option Error → Prop
  | some e => t = s.refuse e
  | none => ∃ m out, Answered s t (.ok m out)

/-- An error a command ends with is the one it is refused with. -/
theorem Ended.answered_error_iff {s t : State} {status : Option Error} (h : Ended s t status) (e : Error) :
    Answered s t (.error e) ↔ status = some e := by
  match status, h with
  | some e', h =>
    cases h
    refine ⟨fun ha => ?_, fun he => ?_⟩
    · cases ha.unique (s.refuse_answered e')
      rfl
    · cases he
      exact s.refuse_answered e
  | none, ⟨m, out, hok⟩ =>
    refine ⟨fun ha => ?_, nofun⟩
    cases ha.unique hok

theorem Ended.eq_refuse {s t : State} {status : Option Error} {e : Error} (h : Ended s t status)
    (ha : Answered s t (.error e)) : t = s.refuse e := by
  cases (h.answered_error_iff e).mp ha
  exact h

/-- The meaning has a next state, and there the command ended with the given status. -/
def EndsWith (s : State) (o : Host.Outcome State Fault Refusal) (status : Option Error) : Prop :=
  ∃ t, o = .next t ∧ Ended s t status

theorem endsWith_refuse (s : State) (e : Error) : EndsWith s (.next (s.refuse e)) (some e) :=
  ⟨_, rfl, rfl⟩

theorem endsWith_respond_ok {s u : State} (m : Info) (out : List Byte) (hu : u.responses = s.responses) :
    EndsWith s (.next (u.respond (.ok m out))) none :=
  ⟨_, rfl, m, out, by rw [Answered, State.respond_responses, hu]⟩

/-- A check of a meaning is a check of its status: the two sides branch on one condition. -/
theorem EndsWith.ite {s : State} {c : Prop} [Decidable c] {o o' : Host.Outcome State Fault Refusal}
    {status status' : Option Error} (h : c → EndsWith s o status) (h' : ¬ c → EndsWith s o' status') :
    EndsWith s (if c then o else o') (if c then status else status') := by
  split
  · exact h ‹_›
  · exact h' ‹_›

/-! ### The error of a command -/

/-- E_UNINIT unless the registers the command reads are loaded (R135). -/
def uninitUnless (loaded : Bool) : Option Error :=
  if loaded then none else some .uninit

/-- The guards of Decrypt (R112). -/
def decryptRefusal (p : Params) (input : List Byte) : Option Error :=
  if hasMagic input then
    if input.length < hdrLen then some .malformedContainer
    else if overMaxLen p.maxLen (input.length - hdrLen) then some .length
    else none
  else some .notContainer

/-- The guard of Encrypt (R113). -/
def encryptRefusal (p : Params) (input : List Byte) : Option Error :=
  if overMaxLen p.maxLen input.length then some .length else none

/-- The error that refuses a command, or nothing when it ends with OK. -/
def refusalOf (s : State) : Instr → Option Error
  | .lfsrLoad _ _ _ => none
  | .lfsrPeek g x => uninitUnless (s.reg g x).loaded
  | .lfsrAdvance g x => uninitUnless (s.reg g x).loaded
  | .ksgInit _ key => if key.length = keyLen then none else some .frame
  | .ksgNextBit g => uninitUnless (s.slotLoaded g)
  | .ksgNextBits g n => if n.toNat ≤ nMax then uninitUnless (s.slotLoaded g) else some .operand
  | .ksgCryptByte g _ => uninitUnless (s.slotLoaded g)
  | .ksgCrypt g buf =>
    if overMaxLen s.params.maxLen buf.length then some .length else uninitUnless (s.slotLoaded g)
  | .codecRun input => if hasMagic input then decryptRefusal s.params input else encryptRefusal s.params input
  | .codecDecrypt input => decryptRefusal s.params input
  | .codecEncrypt input => encryptRefusal s.params input

/-- A reading command on a slot, once its registers are checked. -/
theorem endsWith_uninitUnless {s u : State} {loaded : Bool} (out : List Byte) (hu : u.responses = s.responses) :
    EndsWith s (if loaded then .next (u.respondOk out) else .next (s.refuse .uninit)) (uninitUnless loaded) :=
  .ite (fun _ => endsWith_respond_ok .none out hu) (fun _ => endsWith_refuse s .uninit)

theorem decryptCommand_endsWith (s : State) (input : List Byte) :
    EndsWith s (.next (s.decryptCommand input)) (decryptRefusal s.params input) := by
  rw [State.decryptCommand, State.decryptContainer_eq, apply_ite Host.Outcome.next, apply_ite Host.Outcome.next,
    apply_ite Host.Outcome.next]
  exact .ite
    (fun _ => .ite (fun _ => endsWith_refuse s _) fun _ =>
      .ite (fun _ => endsWith_refuse s _) fun _ => endsWith_respond_ok .decrypt _ s.unloadAll_responses)
    fun _ => endsWith_refuse s _

theorem encryptCommand_endsWith (s : State) (input : List Byte) :
    EndsWith s (.next (s.encryptCommand input)) (encryptRefusal s.params input) := by
  rw [State.encryptCommand, State.encryptPayload_eq, apply_ite Host.Outcome.next]
  exact .ite (fun _ => endsWith_refuse s _) fun _ =>
    endsWith_respond_ok .encrypt _ (by simp [State.draw_snd])

/-- Every command ends with the error `refusalOf` names, or with OK when it names none. -/
theorem exec_endsWith (i : Instr) (s : State) : EndsWith s (exec i s) (refusalOf s i) := by
  cases i with
  | lfsrLoad g x seed => exact endsWith_respond_ok .none [] (s.setReg_responses g x _)
  | lfsrPeek g x => exact endsWith_uninitUnless _ rfl
  | lfsrAdvance g x => exact endsWith_uninitUnless _ (s.setReg_responses g x _)
  | ksgInit g key =>
    exact .ite (fun _ => endsWith_respond_ok .none [] (s.setSlot_responses g _)) fun _ => endsWith_refuse s _
  | ksgNextBit g => exact endsWith_uninitUnless _ (s.setSlot_responses g _)
  | ksgNextBits g n =>
    exact .ite (fun _ => endsWith_uninitUnless _ (s.setSlot_responses g _)) fun _ => endsWith_refuse s _
  | ksgCryptByte g v => exact endsWith_uninitUnless _ (s.setSlot_responses g _)
  | ksgCrypt g buf =>
    exact .ite (fun _ => endsWith_refuse s _) fun _ => endsWith_uninitUnless _ (s.setSlot_responses g _)
  | codecRun input => exact .ite (fun _ => decryptCommand_endsWith s input) fun _ => encryptCommand_endsWith s input
  | codecDecrypt input => exact decryptCommand_endsWith s input
  | codecEncrypt input => exact encryptCommand_endsWith s input

theorem exec_answered_error_iff {i : Instr} {s t : State} (ht : exec i s = .next t) (e : Error) :
    Answered s t (.error e) ↔ refusalOf s i = some e := by
  obtain ⟨t', ht', hend⟩ := exec_endsWith i s
  cases ht.symm.trans ht'
  exact hend.answered_error_iff e

theorem State.refuse_refusedWith (s : State) (e : Error) : RefusedWith s (s.refuse e) e :=
  ⟨rfl, ⟨rfl, rfl⟩, rfl, rfl, rfl, rfl, rfl⟩

theorem exec_refusedWith {i : Instr} {s : State} {e : Error} (h : refusalOf s i = some e) :
    ∃ t, exec i s = .next t ∧ RefusedWith s t e := by
  obtain ⟨t, ht, hend⟩ := exec_endsWith i s
  rw [h] at hend
  cases hend
  exact ⟨_, ht, s.refuse_refusedWith e⟩

/-! ### E_UNINIT (R135) -/

theorem State.slotLoaded_eq_false_iff (s : State) (g : Slot) :
    s.slotLoaded g = false ↔ ∃ x, (s.reg g x).loaded = false := by
  rw [← Bool.not_eq_true, State.slotLoaded, Generator.loaded_iff]
  simp [State.reg]

theorem encryptRefusal_ne_uninit (p : Params) (input : List Byte) : encryptRefusal p input ≠ some .uninit := by
  unfold encryptRefusal
  split <;> simp

theorem decryptRefusal_ne_uninit (p : Params) (input : List Byte) : decryptRefusal p input ≠ some .uninit := by
  unfold decryptRefusal
  split_ifs <;> simp

theorem refusalOf_codec_ne_uninit {i : Instr} (hi : slotOf i = none) (s : State) : refusalOf s i ≠ some .uninit := by
  match i, hi with
  | .codecDecrypt input, _ => exact decryptRefusal_ne_uninit s.params input
  | .codecEncrypt input, _ => exact encryptRefusal_ne_uninit s.params input
  | .codecRun input, _ =>
    rw [refusalOf]
    split
    · exact decryptRefusal_ne_uninit s.params input
    · exact encryptRefusal_ne_uninit s.params input

/-- Settles O18: `refusalOf` of a reading command is E_UNINIT, and of the others it never is. -/
theorem unloadedReadsAreRefused : Obligations.UnloadedReadsAreRefused := by
  unfold Obligations.UnloadedReadsAreRefused
  refine ⟨fun g x s h => ?_, fun g x s h => ?_, fun i s t hi ht ha => ?_⟩
  · exact ⟨exec_refusedWith (by simp [refusalOf, uninitUnless, h]),
      exec_refusedWith (by simp [refusalOf, uninitUnless, h])⟩
  · have hslot : uninitUnless (s.slotLoaded g) = some .uninit := by
      rw [(s.slotLoaded_eq_false_iff g).mpr ⟨x, h⟩]
      rfl
    exact ⟨exec_refusedWith hslot, fun n hn => exec_refusedWith ((if_pos hn).trans hslot),
      fun v => exec_refusedWith hslot,
      fun buf hm => exec_refusedWith (by rw [refusalOf, hm]; exact hslot)⟩
  · have hstatus := (exec_answered_error_iff ht .uninit).mp ha
    obtain hi | ⟨g, x, seed, rfl⟩ | ⟨g, key, rfl⟩ := hi
    · exact refusalOf_codec_ne_uninit hi s hstatus
    · cases hstatus
    · rw [refusalOf] at hstatus
      split at hstatus <;> cases hstatus

/-! ### The error of a frame -/

/-- The error that refuses a frame, or nothing when its command ends with OK. -/
def decodedRefusal (s : State) : Except Error Instr → Option Error
  | .ok i => refusalOf s i
  | .error e => some e

theorem step_frame_ended {s : State} {F : List Byte} {rest : List HostInput} (hF : s.pending = .frame F :: rest) :
    ∃ t, step s = .next t ∧
      Ended { s with pending := rest } t (decodedRefusal { s with pending := rest } (decode F)) := by
  rw [step, State.takeInput, hF]
  cases hd : decode F with
  | ok i =>
    obtain ⟨t, ht, hend⟩ := exec_endsWith i { s with pending := rest }
    exact ⟨t, by simpa [hd] using ht, hend⟩
  | error e => exact ⟨_, by simp only [hd], rfl⟩

/-- Settles O6: an error is answered by `refuse`, which only appends the response. -/
theorem refusalLeavesNoTrace : Obligations.RefusalLeavesNoTrace := by
  unfold Obligations.RefusalLeavesNoTrace
  intro s t F rest e hF ht ha
  obtain ⟨t', ht', hend⟩ := step_frame_ended hF
  cases ht.symm.trans ht'
  exact ⟨hend.eq_refuse ha, rfl⟩

/-! ### The first cause (R138) -/

open Classical in
/-- The first cause, in the order of R138, that applies to a frame with an opcode. -/
noncomputable def firstCause (s : State) (op : Byte) (operands : List Byte) : Option Error :=
  errorPriority.find? fun e => errorApplies s op operands e

theorem firstThatApplies_iff {s : State} {op : Byte} {operands : List Byte} {e : Error} :
    FirstThatApplies s op operands e ↔ firstCause s op operands = some e := by
  simp only [firstCause, List.find?_eq_some_iff_append, decide_eq_true_eq, Bool.not_eq_true',
    decide_eq_false_iff_not]
  constructor
  · rintro ⟨before, after, hsplit, happlies, hbefore⟩
    exact ⟨happlies, before, after, hsplit, hbefore⟩
  · rintro ⟨happlies, before, after, hsplit, hbefore⟩
    exact ⟨before, after, hsplit, happlies, hbefore⟩

theorem firstCause_eq_none {s : State} {op : Byte} {operands : List Byte}
    (h : ∀ e, ¬ FirstThatApplies s op operands e) : firstCause s op operands = none :=
  Option.eq_none_iff_forall_ne_some.mpr fun e he => h e (firstThatApplies_iff.mpr he)

section
variable {s : State} {op : Byte} {operands : List Byte}

theorem firstCause_of_not_assigned (h : op ∉ assignedOpcodes) : firstCause s op operands = some .illegalCmd := by
  simp [firstCause, errorPriority, errorApplies, h]

theorem firstCause_of_not_fits (hop : op ∈ assignedOpcodes) (h : ¬ lengthFits op operands.length) :
    firstCause s op operands = some .frame := by
  simp [firstCause, errorPriority, errorApplies, hop, h]

theorem firstCause_of_not_legal (hop : op ∈ assignedOpcodes) (hfits : lengthFits op operands.length)
    (h : ¬ operandsLegal op operands) : firstCause s op operands = some .operand := by
  simp [firstCause, errorPriority, errorApplies, hop, hfits, h]

open Classical in
/-- The causes that look at the container, at MAXLEN and at the flags, in their order. -/
theorem firstCause_of_legal (hop : op ∈ assignedOpcodes) (hfits : lengthFits op operands.length)
    (hlegal : operandsLegal op operands) :
    firstCause s op operands =
      if errorApplies s op operands .notContainer then some .notContainer
      else if errorApplies s op operands .malformedContainer then some .malformedContainer
      else if errorApplies s op operands .length then some .length
      else if errorApplies s op operands .uninit then some .uninit
      else none := by
  have hassigned : ¬ errorApplies s op operands .illegalCmd := not_not_intro hop
  have hlength : ¬ errorApplies s op operands .frame := not_not_intro hfits
  have hoperands : ¬ errorApplies s op operands .operand := not_not_intro hlegal
  split_ifs <;> simp [firstCause, errorPriority, *]

end

/-! ### What the decoder accepts (R131, R132, R134) -/

theorem opcodeByte_mem_assignedOpcodes (o : Opcode) : opcodeByte o ∈ assignedOpcodes := by
  cases o <;> decide

theorem eq_opcodeByte_of_opcodeOf {b : Byte} {o : Opcode} (h : opcodeOf b = some o) : b = opcodeByte o := by
  have hbeq := List.find?_some (p := fun o => opcodeByte o == b) h
  exact (eq_of_beq hbeq).symm

theorem not_mem_assignedOpcodes_of_opcodeOf {b : Byte} (h : opcodeOf b = none) : b ∉ assignedOpcodes := by
  have hall : assignedOpcodes = allOpcodes.map opcodeByte := rfl
  rw [hall, List.mem_map]
  rintro ⟨o, ho, hb⟩
  exact List.find?_eq_none.mp h o ho (beq_iff_eq.mpr hb)

/-- The bit fields of R55 give the six selectors that R134 lists. -/
theorem regOfSel_eq (sel : Byte) :
    regOfSel sel =
      if sel ∈ ([0x00, 0x01, 0x02, 0x04, 0x05, 0x06] : List Byte) then some (namedRegister sel) else none := by
  revert sel
  decide

theorem slotOfByte_eq (g : Byte) :
    slotOfByte g = if g ∈ ([0x00, 0x01] : List Byte) then some (namedSlot g) else none := by
  revert g
  decide

theorem withSel_eq (sel : Byte) (k : Slot → RegName → Instr) :
    withSel sel k =
      if sel ∈ ([0x00, 0x01, 0x02, 0x04, 0x05, 0x06] : List Byte) then
        .ok (k (namedRegister sel).1 (namedRegister sel).2)
      else .error .operand := by
  rw [withSel, regOfSel_eq]
  split_ifs <;> rfl

theorem withSlot_eq (g : Byte) (k : Slot → Instr) :
    withSlot g k = if g ∈ ([0x00, 0x01] : List Byte) then .ok (k (namedSlot g)) else .error .operand := by
  rw [withSlot, slotOfByte_eq]
  split_ifs <;> rfl

/-- The command that operands of a legal form stand for (R52, R53, R54). -/
def commandOf (o : Opcode) (operands : List Byte) : Instr :=
  let sel := operands.getD 0 0
  match o with
  | .lfsrLoad => .lfsrLoad (namedRegister sel).1 (namedRegister sel).2 (wordAt operands 1)
  | .lfsrPeek => .lfsrPeek (namedRegister sel).1 (namedRegister sel).2
  | .lfsrAdvance => .lfsrAdvance (namedRegister sel).1 (namedRegister sel).2
  | .ksgInit => .ksgInit (namedSlot sel) (operands.drop 1)
  | .ksgNextBit => .ksgNextBit (namedSlot sel)
  | .ksgNextBits => .ksgNextBits (namedSlot sel) (operands.getD 1 0)
  | .ksgCryptByte => .ksgCryptByte (namedSlot sel) (operands.getD 1 0)
  | .ksgCrypt => .ksgCrypt (namedSlot sel) (operands.drop 1)
  | .codecRun => .codecRun operands
  | .codecDecrypt => .codecDecrypt operands
  | .codecEncrypt => .codecEncrypt operands

open Classical in
/-- The decoder checks the length and then the operands, as R132 and R134 list them. -/
theorem decodeOperands_eq (o : Opcode) (operands : List Byte) :
    decodeOperands o operands =
      if lengthFits (opcodeByte o) operands.length then
        if operandsLegal (opcodeByte o) operands then .ok (commandOf o operands) else .error .operand
      else .error .frame := by
  cases o with
  | lfsrLoad =>
    match operands with
    | [sel, s0, s1, s2, s3] =>
      simp [decodeOperands, withSel_eq, lengthFits, operandsLegal, commandOf, opcodeByte, wordAt]
    | [] | [_] | [_, _] | [_, _, _] | [_, _, _, _] | _ :: _ :: _ :: _ :: _ :: _ :: _ =>
      simp [decodeOperands, lengthFits, opcodeByte]
  | lfsrPeek | lfsrAdvance =>
    match operands with
    | [sel] => simp [decodeOperands, withSel_eq, lengthFits, operandsLegal, commandOf, opcodeByte]
    | [] | _ :: _ :: _ => simp [decodeOperands, lengthFits, opcodeByte]
  | ksgNextBit =>
    match operands with
    | [g] => simp [decodeOperands, withSlot_eq, lengthFits, operandsLegal, commandOf, opcodeByte]
    | [] | _ :: _ :: _ => simp [decodeOperands, lengthFits, opcodeByte]
  | ksgNextBits =>
    match operands with
    | [g, n] =>
      by_cases hn : n.toNat ≤ 32 <;>
        simp [decodeOperands, withSlot_eq, lengthFits, operandsLegal, commandOf, opcodeByte, nMax, hn]
    | [] | [_] | _ :: _ :: _ :: _ => simp [decodeOperands, lengthFits, opcodeByte]
  | ksgCryptByte =>
    match operands with
    | [g, v] => simp [decodeOperands, withSlot_eq, lengthFits, operandsLegal, commandOf, opcodeByte]
    | [] | [_] | _ :: _ :: _ :: _ => simp [decodeOperands, lengthFits, opcodeByte]
  | ksgInit | ksgCrypt =>
    match operands with
    | g :: rest => simp [decodeOperands, withSlot_eq, lengthFits, operandsLegal, commandOf, opcodeByte, keyLen]
    | [] => simp [decodeOperands, lengthFits, opcodeByte]
  | codecRun | codecDecrypt | codecEncrypt =>
    simp [decodeOperands, lengthFits, operandsLegal, commandOf, opcodeByte]

/-! ### The causes that the meanings check (R133, R135 to R137) -/

theorem overMaxLen_iff (maxLen : Option Nat) (payload : Nat) :
    overMaxLen maxLen payload = true ↔ ∃ m, maxLen = some m ∧ m < payload := by
  cases maxLen <;> simp [overMaxLen]

theorem uninitUnless_eq (loaded : Bool) : uninitUnless loaded = if loaded = false then some .uninit else none := by
  cases loaded <;> rfl

theorem readsUnloaded_of_ksg {op : Byte} (hop : op = 0x11 ∨ op = 0x12 ∨ op = 0x13 ∨ op = 0x14) (s : State)
    (operands : List Byte) :
    readsUnloaded s op operands ↔ s.slotLoaded (namedSlot (operands.getD 0 0)) = false := by
  obtain rfl | rfl | rfl | rfl := hop <;> simp [readsUnloaded, State.slotLoaded_eq_false_iff]

/-- Once the frame has a legal form, its first cause is the error of its command. -/
theorem firstCause_eq_refusalOf (s : State) {o : Opcode} {operands : List Byte}
    (hfits : lengthFits (opcodeByte o) operands.length) (hlegal : operandsLegal (opcodeByte o) operands) :
    firstCause s (opcodeByte o) operands = refusalOf s (commandOf o operands) := by
  rw [firstCause_of_legal (opcodeByte_mem_assignedOpcodes o) hfits hlegal]
  cases o with
  | lfsrLoad => simp [errorApplies, payloadTooLong, readsUnloaded, refusalOf, commandOf, opcodeByte]
  | lfsrPeek | lfsrAdvance =>
    simp [errorApplies, payloadTooLong, readsUnloaded, refusalOf, commandOf, opcodeByte, uninitUnless_eq]
  | ksgInit =>
    have hlen : operands.length = 13 := hfits.2.2.1 rfl
    simp [errorApplies, payloadTooLong, readsUnloaded, refusalOf, commandOf, opcodeByte, keyLen, hlen]
  | ksgNextBit | ksgCryptByte =>
    simp [errorApplies, payloadTooLong, readsUnloaded_of_ksg, refusalOf, commandOf, opcodeByte, uninitUnless_eq]
  | ksgNextBits =>
    have hn : (operands.getD 1 0).toNat ≤ nMax := hlegal.2.2 rfl
    rw [commandOf, refusalOf, if_pos hn]
    simp [errorApplies, payloadTooLong, readsUnloaded_of_ksg, opcodeByte, uninitUnless_eq]
  | ksgCrypt =>
    simp [errorApplies, payloadTooLong, readsUnloaded_of_ksg, refusalOf, commandOf, opcodeByte, uninitUnless_eq,
      overMaxLen_iff]
  | codecRun | codecDecrypt =>
    by_cases hmagic : magicBytes <+: operands <;>
      simp [errorApplies, payloadTooLong, readsUnloaded, refusalOf, decryptRefusal, encryptRefusal, commandOf,
        opcodeByte, hasMagic_iff, hmagic, hdrLen, overMaxLen_iff]
  | codecEncrypt =>
    simp [errorApplies, payloadTooLong, readsUnloaded, refusalOf, encryptRefusal, commandOf, opcodeByte,
      overMaxLen_iff]

/-! ### The status of a frame -/

/-- The error of a frame with an opcode is its first cause: opcode, length, operands, and then the command's own. -/
theorem decodedRefusal_decode (s : State) (op : Byte) (operands : List Byte) :
    decodedRefusal s (decode (op :: operands)) = firstCause s op operands := by
  cases ho : opcodeOf op with
  | none =>
    rw [firstCause_of_not_assigned (not_mem_assignedOpcodes_of_opcodeOf ho), decode, ho]
    rfl
  | some o =>
    have hdecode : decode (op :: operands) = decodeOperands o operands := by rw [decode, ho]
    have hop := opcodeByte_mem_assignedOpcodes o
    rw [hdecode, eq_opcodeByte_of_opcodeOf ho, decodeOperands_eq]
    by_cases hfits : lengthFits (opcodeByte o) operands.length
    · by_cases hlegal : operandsLegal (opcodeByte o) operands
      · rw [if_pos hfits, if_pos hlegal, firstCause_eq_refusalOf s hfits hlegal, decodedRefusal]
      · rw [if_pos hfits, if_neg hlegal, firstCause_of_not_legal hop hfits hlegal, decodedRefusal]
    · rw [if_neg hfits, firstCause_of_not_fits hop hfits, decodedRefusal]

/-- Settles O5: the error of the frame is its first cause, and without one the command ends with OK. -/
theorem statusIsTheFirstThatApplies : Obligations.StatusIsTheFirstThatApplies := by
  unfold Obligations.StatusIsTheFirstThatApplies
  intro s F rest hF
  obtain ⟨t, ht, hend⟩ := step_frame_ended hF
  refine ⟨t, ht, ?_, ?_, ?_⟩
  · rintro rfl
    exact (hend.answered_error_iff .illegalCmd).mpr rfl
  · rintro op operands rfl e
    rw [decodedRefusal_decode] at hend
    exact (hend.answered_error_iff e).trans firstThatApplies_iff.symm
  · rintro op operands rfl hnone
    have hcause : firstCause { s with pending := rest } op operands = none := firstCause_eq_none hnone
    rw [decodedRefusal_decode, hcause] at hend
    exact hend

end Sys2Proof.Machine
end

section
/-! PROOFS. Encoding and decoding (R50 to R64): `commandOf` reads the operands back that `encodeOperands` writes, and
the other way round; O1 and O2 follow through `decodeOperands_eq`. -/

namespace Sys2Proof.Machine

/-! ### Little-endian words (R32) -/

theorem or_shiftLeft_eq_add {x i : Nat} (hx : x < 2 ^ i) (y : Nat) : x ||| y <<< i = x + y * 2 ^ i := by
  rw [Nat.or_comm, ← Nat.shiftLeft_add_eq_or_of_lt hx, Nat.shiftLeft_eq, Nat.add_comm]

/-- The four bytes of `le32` do not overlap, so or-ing them adds them. -/
theorem le32_toNat (b0 b1 b2 b3 : Byte) : (le32 b0 b1 b2 b3).toNat = littleEndian b0 b1 b2 b3 := by
  have hshift (b : Byte) {i : Nat} (hi : i ≤ 24) : (b.setWidth 32 <<< i).toNat = b.toNat <<< i := by
    have hfits : b.toNat <<< i < 2 ^ 32 := by
      rw [Nat.shiftLeft_eq]
      exact Nat.mul_lt_mul_of_lt_of_le (c := 2 ^ 8) (d := 2 ^ 24) b.isLt (Nat.pow_le_pow_right (by decide) hi)
        (by decide)
    rw [BitVec.toNat_shiftLeft, BitVec.toNat_setWidth_of_le (by decide), Nat.mod_eq_of_lt hfits]
  rw [le32, BitVec.toNat_or, BitVec.toNat_or, BitVec.toNat_or, BitVec.toNat_setWidth_of_le (by decide),
    hshift b1 (by decide), hshift b2 (by decide), hshift b3 (by decide), or_shiftLeft_eq_add b0.isLt,
    or_shiftLeft_eq_add (i := 16) (by omega), or_shiftLeft_eq_add (i := 24) (by omega), littleEndian]
  omega

theorem le32_extractLsb' (w : Word) :
    le32 (w.extractLsb' 0 8) (w.extractLsb' 8 8) (w.extractLsb' 16 8) (w.extractLsb' 24 8) = w :=
  BitVec.eq_of_toNat_eq ((le32_toNat ..).trans (littleEndian_bytesLe32 w))

theorem bytesLe32_le32 (b0 b1 b2 b3 : Byte) : bytesLe32 (le32 b0 b1 b2 b3) = [b0, b1, b2, b3] := by
  simp only [bytesLe32, List.cons.injEq, ← BitVec.toNat_inj, BitVec.extractLsb'_toNat, le32_toNat, littleEndian,
    Nat.shiftRight_eq_div_pow]
  refine ⟨?_, ?_, ?_, ?_, trivial⟩ <;> omega

/-! ### Selectors (R55, R56) -/

theorem selByte_legal (g : Slot) (x : RegName) :
    selByte g x ∈ ([0x00, 0x01, 0x02, 0x04, 0x05, 0x06] : List Byte) := by
  cases g <;> cases x <;> decide

theorem slotByte_legal (g : Slot) : slotByte g ∈ ([0x00, 0x01] : List Byte) := by
  cases g <;> decide

theorem namedRegister_selByte (g : Slot) (x : RegName) : namedRegister (selByte g x) = (g, x) := by
  cases g <;> cases x <;> rfl

theorem namedSlot_slotByte (g : Slot) : namedSlot (slotByte g) = g := by
  cases g <;> rfl

theorem selByte_namedRegister {sel : Byte} (h : sel ∈ ([0x00, 0x01, 0x02, 0x04, 0x05, 0x06] : List Byte)) :
    selByte (namedRegister sel).1 (namedRegister sel).2 = sel := by
  revert sel
  decide

theorem slotByte_namedSlot {g : Byte} (h : g ∈ ([0x00, 0x01] : List Byte)) : slotByte (namedSlot g) = g := by
  revert g
  decide

/-! ### Operands (R52 to R54) -/

theorem opcodeOf_opcodeByte (o : Opcode) : opcodeOf (opcodeByte o) = some o := by
  cases o <;> rfl

theorem encodeOperands_fits {i : Instr} (hi : i.wellFormed = true) :
    lengthFits (opcodeByte (opcodeOfInstr i)) (encodeOperands i).length := by
  cases i with
  | ksgInit g key =>
    have hlen : key.length = 12 := by simpa [Instr.wellFormed, keyLen] using hi
    simp [lengthFits, opcodeByte, opcodeOfInstr, encodeOperands, hlen]
  | _ => simp [lengthFits, opcodeByte, opcodeOfInstr, encodeOperands, bytesLe32]

theorem encodeOperands_legal {i : Instr} (hi : i.wellFormed = true) :
    operandsLegal (opcodeByte (opcodeOfInstr i)) (encodeOperands i) := by
  cases i with
  | lfsrLoad g x _ | lfsrPeek g x | lfsrAdvance g x =>
    simpa [operandsLegal, opcodeByte, opcodeOfInstr, encodeOperands] using selByte_legal g x
  | ksgNextBits g n =>
    have hn : n.toNat ≤ 32 := of_decide_eq_true hi
    simpa [operandsLegal, opcodeByte, opcodeOfInstr, encodeOperands, hn] using slotByte_legal g
  | ksgInit g _ | ksgNextBit g | ksgCryptByte g _ | ksgCrypt g _ =>
    simpa [operandsLegal, opcodeByte, opcodeOfInstr, encodeOperands] using slotByte_legal g
  | codecRun | codecDecrypt | codecEncrypt => simp [operandsLegal, opcodeByte, opcodeOfInstr]

theorem commandOf_encodeOperands (i : Instr) : commandOf (opcodeOfInstr i) (encodeOperands i) = i := by
  cases i <;>
    simp [commandOf, opcodeOfInstr, encodeOperands, namedRegister_selByte, namedSlot_slotByte, wordAt, bytesLe32,
      le32_extractLsb']

theorem opcodeOfInstr_commandOf (o : Opcode) (operands : List Byte) : opcodeOfInstr (commandOf o operands) = o := by
  cases o <;> rfl

theorem commandOf_wellFormed {o : Opcode} {operands : List Byte} (hfits : lengthFits (opcodeByte o) operands.length)
    (hlegal : operandsLegal (opcodeByte o) operands) : (commandOf o operands).wellFormed = true := by
  cases o with
  | ksgInit =>
    have hlen : operands.length = 13 := hfits.2.2.1 rfl
    simp [commandOf, Instr.wellFormed, hlen, keyLen]
  | ksgNextBits => exact decide_eq_true (hlegal.2.2 rfl)
  | _ => rfl

theorem encodeOperands_commandOf {o : Opcode} {operands : List Byte}
    (hfits : lengthFits (opcodeByte o) operands.length) (hlegal : operandsLegal (opcodeByte o) operands) :
    encodeOperands (commandOf o operands) = operands := by
  obtain ⟨hsel, hslot, -⟩ := hlegal
  obtain ⟨hfive, hone, hkey, htwo, hpos⟩ := hfits
  cases o with
  | lfsrLoad =>
    match operands, hfive rfl, hsel (.inl rfl) with
    | [sel, s0, s1, s2, s3], _, h => exact congrArg₂ List.cons (selByte_namedRegister h) (bytesLe32_le32 s0 s1 s2 s3)
  | lfsrPeek | lfsrAdvance =>
    match operands, hone (by decide), hsel (by decide) with
    | [sel], _, h => exact congrArg (· :: []) (selByte_namedRegister h)
  | ksgNextBit =>
    match operands, hone (by decide), hslot (by decide) with
    | [g], _, h => exact congrArg (· :: []) (slotByte_namedSlot h)
  | ksgNextBits | ksgCryptByte =>
    match operands, htwo (by decide), hslot (by decide) with
    | [g, n], _, h => exact congrArg (· :: [n]) (slotByte_namedSlot h)
  | ksgInit =>
    match operands, hkey rfl, hslot (by decide) with
    | g :: key, _, h => exact congrArg (· :: key) (slotByte_namedSlot h)
  | ksgCrypt =>
    match operands, hpos rfl, hslot (by decide) with
    | g :: buf, _, h => exact congrArg (· :: buf) (slotByte_namedSlot h)
  | codecRun | codecDecrypt | codecEncrypt => rfl

/-- A frame decodes exactly when its opcode is assigned and its operands have a legal form (R131, R132, R134). -/
theorem decode_eq_ok_iff (F : List Byte) (i : Instr) :
    decode F = .ok i ↔ ∃ o operands, F = opcodeByte o :: operands ∧ lengthFits (opcodeByte o) operands.length ∧
      operandsLegal (opcodeByte o) operands ∧ i = commandOf o operands := by
  constructor
  · intro h
    cases F with
    | nil => cases h
    | cons op operands =>
      cases ho : opcodeOf op with
      | none =>
        rw [decode, ho] at h
        cases h
      | some o =>
        rw [decode, ho] at h
        replace h : decodeOperands o operands = .ok i := h
        rw [decodeOperands_eq] at h
        split_ifs at h with hfits hlegal
        cases h
        exact ⟨o, operands, by rw [eq_opcodeByte_of_opcodeOf ho], hfits, hlegal, rfl⟩
  · rintro ⟨o, operands, rfl, hfits, hlegal, rfl⟩
    rw [decode, opcodeOf_opcodeByte]
    exact (decodeOperands_eq o operands).trans (by rw [if_pos hfits, if_pos hlegal])

/-- Settles O1: the operands of a well-formed command are legal, and they name the command. -/
theorem decodeOfEncodeIsTheCommand : Obligations.DecodeOfEncodeIsTheCommand := by
  unfold Obligations.DecodeOfEncodeIsTheCommand
  exact fun i hi => (decode_eq_ok_iff _ i).mpr ⟨opcodeOfInstr i, encodeOperands i, rfl, encodeOperands_fits hi,
    encodeOperands_legal hi, (commandOf_encodeOperands i).symm⟩

/-- Settles O2: operands of a legal form are the operands of the command they name. -/
theorem encodeOfDecodeIsTheFrame : Obligations.EncodeOfDecodeIsTheFrame := by
  unfold Obligations.EncodeOfDecodeIsTheFrame
  intro F i h
  obtain ⟨o, operands, rfl, hfits, hlegal, rfl⟩ := (decode_eq_ok_iff F i).mp h
  rw [encode, opcodeOfInstr_commandOf, encodeOperands_commandOf hfits hlegal]
  exact ⟨rfl, commandOf_wellFormed hfits hlegal⟩

/-- Settles O3: each frame is evaluated. -/
theorem writtenFramesDecode : Obligations.WrittenFramesDecode := by
  unfold Obligations.WrittenFramesDecode
  decide

end Sys2Proof.Machine
end

section
/-! PROOFS. The registers and the keystream, command by command (R80 to R97): each bit of an Advance, the bit of a round
in both sampling modes, and the commands that answer them. -/

namespace Sys2Proof.Machine

/-! ### The bits of an Advance (R80, R82) -/

/-- How many low bits of a register are its own: those where `ROT_X` is 1 (R13). -/
def regWidth : RegName → Nat
  | .a => 31
  | .b => 30
  | .c => 28

theorem rotOf_getLsbD (x : RegName) {i : Nat} (hi : i < 32) : (rotOf x).getLsbD i = decide (i < regWidth x) := by
  have table : ∀ i < 32, (rotOf x).getLsbD i = decide (i < regWidth x) := by cases x <;> decide
  exact table i hi

/-- Bit by bit: a bit of the register's own is the next one up, flipped where feedback has the mask; the bits above are
the bit returned. -/
theorem advance_value_getLsbD (x : RegName) (r : ClockedRegister) {i : Nat} (hi : i < 32) :
    (advance x r).2.value.getLsbD i =
      if i < regWidth x then r.value.getLsbD (i + 1) ^^ (peek r && (maskOf x).getLsbD (i + 1)) else peek r := by
  cases h : peek r with
  | true =>
    rw [advance_value_of_low x r h, nrotOf, BitVec.getLsbD_or, BitVec.getLsbD_not, BitVec.getLsbD_ushiftRight,
      BitVec.getLsbD_xor, rotOf_getLsbD x hi, Nat.add_comm 1]
    split <;> simp [*]
  | false =>
    rw [advance_value_of_not_low x r h, BitVec.getLsbD_and, BitVec.getLsbD_ushiftRight, rotOf_getLsbD x hi,
      Nat.add_comm 1]
    split <;> simp [*]

/-- The bits that feedback flips: those under a bit of `MASK_X` (R13). -/
def flippedBits : RegName → List Nat
  | .a => [30, 5, 4, 0]
  | .b => [29, 4]
  | .c => [27, 0]

theorem maskOf_getLsbD_succ (x : RegName) {i : Nat} (hi : i < 32) :
    (maskOf x).getLsbD (i + 1) = decide (i ∈ flippedBits x) := by
  have table : ∀ i < 32, (maskOf x).getLsbD (i + 1) = decide (i ∈ flippedBits x) := by cases x <;> decide
  exact table i hi

theorem xor_decide_eq_ite (b : Bool) (p : Prop) [Decidable p] : (b ^^ decide p) = if p then !b else b := by
  split <;> simp [*]

/-- The table of R82 in the terms of the mask and of the register's own width. -/
theorem tabledBit_eq (x : RegName) (v : Word) {i : Nat} (hi : i < 32) :
    tabledBit x v i =
      if i < regWidth x then v.getLsbD (i + 1) ^^ (v.getLsbD 0 && decide (i ∈ flippedBits x)) else v.getLsbD 0 := by
  have htop : i = 31 ↔ ¬ i < 31 := by omega
  cases hlow : v.getLsbD 0 <;> cases x <;>
    simp only [tabledBit, hlow, regWidth, flippedBits, htop, ← not_lt, ite_not, Bool.true_and, Bool.false_and,
      Bool.xor_false, xor_decide_eq_ite, List.mem_cons, List.not_mem_nil, or_false]

/-- Settles O10: the mask's bits stand where the table negates, and the register's own width is where it repeats. -/
theorem advanceFollowsTheBitTable : Obligations.AdvanceFollowsTheBitTable := by
  unfold Obligations.AdvanceFollowsTheBitTable
  refine fun x r => ⟨advance_fst x r, advance_loaded x r, fun i hi => ?_⟩
  rw [advance_value_getLsbD x r hi, maskOf_getLsbD_succ x hi, tabledBit_eq x _ hi, peek]

/-- Settles O12: the bits named are those past the register's own width. -/
theorem advanceForcesTheHighBits : Obligations.AdvanceForcesTheHighBits := by
  unfold Obligations.AdvanceForcesTheHighBits
  intro x r i h
  have hhigh : i < 32 ∧ ¬ i < regWidth x := by
    obtain ⟨rfl, hi⟩ | ⟨rfl, hi⟩ | ⟨rfl, hi⟩ := h <;> simp only [regWidth] <;> omega
  rw [advance_value_getLsbD x r hhigh.1, if_neg hhigh.2, advance_fst]

theorem rotOf_toNat (x : RegName) : (rotOf x).toNat = 2 ^ regWidth x - 1 := by
  cases x <;> rfl

/-- A step gives zero exactly when bit 0 and the register's own bits above it are zero. -/
theorem advance_value_eq_zero_iff (x : RegName) (r : ClockedRegister) :
    (advance x r).2.value = 0 ↔ r.value.toNat % 2 ^ (regWidth x + 1) = 0 := by
  have hlow : peek r = decide (r.value.toNat % 2 = 1) := by
    rw [peek, BitVec.getLsbD, Nat.testBit_zero]
  rw [pow_succ', Nat.mod_mul]
  cases h : peek r with
  | true =>
    have htop : (advance x r).2.value.getLsbD 31 = true := by
      rw [advance_value_getLsbD x r (by decide), h, if_neg (by cases x <;> decide)]
    have hodd : r.value.toNat % 2 = 1 := of_decide_eq_true (hlow.symm.trans h)
    refine iff_of_false (fun hzero => ?_) (by omega)
    rw [hzero] at htop
    cases htop
  | false =>
    have heven : ¬ r.value.toNat % 2 = 1 := of_decide_eq_false (hlow.symm.trans h)
    rw [advance_value_of_not_low x r h, ← BitVec.toNat_inj, BitVec.toNat_and, rotOf_toNat,
      Nat.and_two_pow_sub_one_eq_mod, BitVec.toNat_ushiftRight, Nat.shiftRight_eq_div_pow, pow_one]
    change r.value.toNat / 2 % 2 ^ regWidth x = 0 ↔ _
    omega

/-- Settles O13: below the top bits a word that steps to zero is zero, and A has no bits above its own. -/
theorem onlyTheListedWordsStepToZero : Obligations.OnlyTheListedWordsStepToZero := by
  unfold Obligations.OnlyTheListedWordsStepToZero
  intro x r hne
  have hpos : r.value.toNat ≠ 0 := fun h => hne (BitVec.eq_of_toNat_eq h)
  rw [advance_value_eq_zero_iff]
  cases x with
  | a =>
    refine iff_of_false ?_ (by simp)
    rw [regWidth, Nat.mod_eq_of_lt r.value.isLt]
    exact hpos
  | b =>
    have hword : r.value.toNat % 2 ^ 31 = 0 ↔ r.value = 0x80000000 := by
      rw [← BitVec.toNat_inj]
      change _ ↔ r.value.toNat = 2 ^ 31
      omega
    simpa [regWidth] using hword
  | c =>
    have hword : r.value.toNat % 2 ^ 29 = 0 ↔ r.value &&& 0x1FFFFFFF = 0 := by
      rw [← BitVec.toNat_inj, BitVec.toNat_and, ← Nat.and_two_pow_sub_one_eq_mod]
      rfl
    simpa [regWidth] using hword

/-! ### LFSR commands -/

/-- Settles O14: the load writes one register and responds. -/
theorem loadWritesOneRegister : Obligations.LoadWritesOneRegister := by
  unfold Obligations.LoadWritesOneRegister
  intro g x seed s
  refine ⟨_, rfl, ?_, fun g' x' hne => ?_, setSlot_respond_sameRest s g _ _, setSlot_respond_answered s g _ _⟩
  · rw [State.respondOk_eq, State.respond_reg, State.reg_setReg_same]
  · rw [State.respondOk_eq, State.respond_reg, State.reg_setReg_other s _ hne]

section
variable {g : Slot} {x : RegName} {p : Params} {k : Generator}

theorem onSlot_lfsrPeek (hl : (k.reg x).loaded = true) :
    onSlot (.lfsrPeek g x) p k = (k, .ok .none [bitByte (peek (k.reg x))]) := by
  rw [onSlot, readIf, if_pos hl]

theorem onSlot_lfsrAdvance (hl : (k.reg x).loaded = true) :
    onSlot (.lfsrAdvance g x) p k = (k.setReg x (advance x (k.reg x)).2, .ok .none [bitByte (peek (k.reg x))]) := by
  rw [onSlot, readIf, if_pos hl, advance_fst]

end

/-- Settles O17: all three commands answer the bit that the peek reads, and the peeks write nothing. -/
theorem peekForetellsAdvance : Obligations.PeekForetellsAdvance := by
  unfold Obligations.PeekForetellsAdvance
  intro g x s hl
  obtain ⟨t, ht, -, hresponses⟩ := execAll_eq_runOnSlot (g := g)
    (cs := [.lfsrPeek g x, .lfsrPeek g x, .lfsrAdvance g x]) (by simp [slotOf]) s
  have hl' : ((s.slot g).reg x).loaded = true := hl
  simp only [runOnSlot, onSlot_lfsrPeek hl', onSlot_lfsrAdvance hl'] at hresponses
  exact ⟨t, _, ht, rfl, hresponses⟩

/-! ### KSG.INIT (R90, R91) -/

theorem wordAt_toNat (key : List Byte) (i : Nat) : (wordAt key i).toNat =
    littleEndian (key.getD i 0) (key.getD (i + 1) 0) (key.getD (i + 2) 0) (key.getD (i + 3) 0) :=
  le32_toNat ..

theorem seedValue_toNat (key : List Byte) (x : RegName) : (seedValue key x).toNat =
    if (keyWord key x).toNat = 0 then (seedOf x).toNat else (keyWord key x).toNat := by
  have hzero : keyWord key x = 0 ↔ (keyWord key x).toNat = 0 := BitVec.toNat_inj.symm
  rw [seedValue, apply_ite BitVec.toNat]
  simp only [hzero]

theorem onSlot_ksgInit {g : Slot} {key : List Byte} (hkey : key.length = keyLen) (p : Params) (k : Generator) :
    onSlot (.ksgInit g key) p k = (initGen key, .ok .none []) :=
  if_pos hkey

/-- Settles O19: the three seeds are the words of the key or the default seeds. -/
theorem initSeedsTheSlot : Obligations.InitSeedsTheSlot := by
  unfold Obligations.InitSeedsTheSlot
  intro g k0 k1 k2 k3 k4 k5 k6 k7 k8 k9 k10 k11 s
  refine ⟨_, exec_of_onSlot rfl (onSlot_ksgInit rfl ..), ?_, ?_, ?_, fun x => ?_,
    setSlot_respond_otherSlotKept s g _ _, setSlot_respond_sameRest s g _ _, setSlot_respond_answered s g _ _⟩ <;>
    rw [State.respond_reg, State.reg, State.slot_setSlot_same, initGen_reg, initReg]
  all_goals
    rw [seedValue_toNat, keyWord, wordAt_toNat]
    rfl

/-! ### One round (R92) -/

/-- Under POST a round answers the xor of the low bits of B and C after it. -/
theorem nextBit_post_fst (k : Generator) :
    (nextBit .post k).1 = (peek (nextBit .post k).2.b ^^ peek (nextBit .post k).2.c) := by
  cases h : peek k.a with
  | false => rw [nextBit_of_not_took _ k h, freshBit]
  | true => rw [nextBit_of_took _ k h, freshBit]

/-- Under PRE a round answers the xor of the low bits of B and C before it. -/
theorem nextBit_pre_fst (k : Generator) : (nextBit .pre k).1 = (peek k.b ^^ peek k.c) := by
  cases h : peek k.a with
  | false => rw [nextBit_of_not_took _ k h, freshBit, advance_fst]
  | true => rw [nextBit_of_took _ k h, freshBit, advance_fst]

/-- Settles O20: the clocks are those of O21's round, and the bit is the one of the sampling mode. -/
theorem nextBitClocksAAndOneOther : Obligations.NextBitClocksAAndOneOther := by
  unfold Obligations.NextBitClocksAAndOneOther
  intro g s hl
  obtain ⟨ha, htook, hnot⟩ := exactlyOneOfBAndCPerRound.1 s.params.sampleMode (s.slot g)
  have hreg (x : RegName) : (((s.setSlot g (nextBit s.params.sampleMode (s.slot g)).2).respond
      (.ok .none [bitByte (nextBit s.params.sampleMode (s.slot g)).1])).reg g x) =
      (nextBit s.params.sampleMode (s.slot g)).2.reg x := by
    rw [State.respond_reg, State.reg, State.slot_setSlot_same]
  refine ⟨_, _, exec_of_onSlot rfl (onSlot_ksgNextBit hl.slot_loaded), ?_, ?_, ?_, fun hpost => ?_, fun hpre => ?_,
    setSlot_respond_otherSlotKept s g _ _, setSlot_respond_sameRest s g _ _, setSlot_respond_answered s g _ _⟩
  · rw [hreg]
    exact ha
  · rw [hreg, hreg]
    exact htook
  · rw [hreg, hreg]
    exact hnot
  · rw [hreg, hreg, hpost]
    exact nextBit_post_fst _
  · rw [hpre]
    exact nextBit_pre_fst _

theorem roundState_mode (m m' : SampleMode) (n : Nat) (k : Generator) : roundState m n k = roundState m' n k := by
  induction n generalizing k with
  | zero => rfl
  | succ n ih => rw [roundState, roundState, nextBit_snd_mode m m', ih]

/-- Settles O30: PRE samples before a round what POST sampled after the round before. -/
theorem preIsPostDelayedByOneBit : Obligations.PreIsPostDelayedByOneBit := by
  unfold Obligations.PreIsPostDelayedByOneBit
  refine fun k n => ⟨roundState_mode .pre .post n k, nextBit_pre_fst k, ?_⟩
  rw [keystreamBit, nextBit_pre_fst, roundState_mode .pre .post, roundState_add, keystreamBit, nextBit_post_fst]
  rfl

/-! ### Counts of bits (R95, R96) -/

theorem keystream_add (m : SampleMode) (n1 n2 : Nat) (k : Generator) :
    keystream m (n1 + n2) k = keystream m n1 k ++ keystream m n2 (roundState m n1 k) := by
  simp [keystream, List.range_add, keystreamBit_add]

theorem packBits_zero_append (x y : List Bool) : packBits 0 (x ++ y) = packBits 0 x * 2 ^ y.length + packBits 0 y := by
  rw [packBits_zero y, ← packBits_eq_add, packBits, packBits, packBits, List.foldl_append]

/-- Settles O24: the bits of both counts, one after the other, are those of their sum. -/
theorem nextBitsSplits : Obligations.NextBitsSplits := by
  unfold Obligations.NextBitsSplits
  intro m n1 n2 k h
  rw [nextBits_fst_toNat m k (by omega), nextBits_snd_eq_roundState, nextBits_fst_toNat m _ (by omega),
    nextBits_fst_toNat m k h, keystream_add, packBits_zero_append, keystream_length, nextBits_snd_eq_roundState,
    nextBits_snd_eq_roundState, roundState_add]
  exact ⟨rfl, rfl⟩

/-- Settles O23: the four bytes of the number stand for it, and the slot is as many rounds on. -/
theorem nextBitsAnswersFourBytes : Obligations.NextBitsAnswersFourBytes := by
  unfold Obligations.NextBitsAnswersFourBytes
  intro g n s hn hl
  exact ⟨_, _, _, _, _, exec_of_onSlot rfl (onSlot_ksgNextBits hn hl.slot_loaded), by simp,
    littleEndian_bytesLe32 _, setSlot_respond_otherSlotKept s g _ _, setSlot_respond_sameRest s g _ _,
    setSlot_respond_answered s g _ _⟩

/-! ### The pseudo-commands (R66) -/

/-- Settles O31: zero bytes take the keystream as it is, in O26 as a buffer and in O25 and O29 as one byte. -/
theorem pseudoCommandsGiveTheKeystream : Obligations.PseudoCommandsGiveTheKeystream := by
  unfold Obligations.PseudoCommandsGiveTheKeystream
  refine ⟨fun g m s hl hm => ?_, fun g s hl => ?_⟩
  · obtain ⟨t, out, ht, hlen, hbits, -, -, -, ha⟩ :=
      cryptXorsTheKeystream g (List.replicate m 0x00) s (by rwa [List.length_replicate]) hl
    rw [List.length_replicate] at hlen hbits
    refine ⟨t, out, ht, ha, hlen, fun i hi j hj => ?_⟩
    rw [hbits i hi j hj]
    simp [hi]
  · obtain ⟨t, t', ks, ht, ha, ht', ha', -⟩ := ksgCryptByte_eq_ksgNextBits g 0x00 s hl
    obtain ⟨u, o, hu, hbits, -, -, -, hau⟩ := cryptByteXorsEightBits g 0x00 s hl
    cases hu.symm.trans ht'
    cases hau.unique ha'
    exact ⟨t, ks, ht, ha, fun j hj => by simpa using hbits j hj⟩

/-! ### A round by hand (R167) -/

theorem bitByte_xor (b c : Bool) : bitByte (b ^^ c) = bitByte b ^^^ bitByte c := by
  cases b <;> cases c <;> rfl

theorem bitByte_eq_one_iff (b : Bool) : bitByte b = 0x01 ↔ b = true := by
  cases b <;> decide

theorem bitByte_eq_zero_iff (b : Bool) : bitByte b = 0x00 ↔ b = false := by
  cases b <;> decide

/-- The last two commands of a round by hand: advance one register and peek it. -/
theorem execAll_lfsrAdvance_lfsrPeek {g : Slot} {x : RegName} {t : State} (hl : (t.reg g x).loaded = true) :
    ∃ v, execAll [.lfsrAdvance g x, .lfsrPeek g x] t = some v ∧
      v.responses = t.responses ++ [.ok .none [bitByte (peek (t.reg g x))],
        .ok .none [bitByte (peek (advance x (t.reg g x)).2)]] ∧
      v.slot g = (t.slot g).setReg x (advance x (t.reg g x)).2 := by
  obtain ⟨v, hv, hslot, hresponses⟩ :=
    execAll_eq_runOnSlot (g := g) (cs := [.lfsrAdvance g x, .lfsrPeek g x]) (by simp [slotOf]) t
  have hl' : (((t.slot g).setReg x (advance x ((t.slot g).reg x)).2).reg x).loaded = true := by
    rw [Generator.reg_setReg_same, advance_loaded]
    exact hl
  simp only [runOnSlot, onSlot_lfsrAdvance (g := g) (k := t.slot g) hl, onSlot_lfsrPeek hl',
    Generator.reg_setReg_same] at hslot hresponses
  exact ⟨v, hv, hresponses, hslot⟩

/-- Settles O32: the advance of A answers the bit that the round branches on, and the two registers of the branch are
clocked and sampled as the round does. -/
theorem roundByHandEqualsNextBit : Obligations.RoundByHandEqualsNextBit := by
  unfold Obligations.RoundByHandEqualsNextBit
  intro g s hl hpost
  have hl' (x : RegName) : ((s.slot g).reg x).loaded = true := hl x
  have hnext := exec_of_onSlot rfl (onSlot_ksgNextBit (g := g) (p := s.params) hl.slot_loaded)
  rw [hpost] at hnext
  obtain ⟨t, ht, hslot, hresponses⟩ := execAll_eq_runOnSlot (g := g)
    (cs := [.lfsrPeek g .b, .lfsrPeek g .c, .lfsrAdvance g .a]) (by simp [slotOf]) s
  simp only [runOnSlot, onSlot_lfsrPeek (hl' _), onSlot_lfsrAdvance (hl' _)] at hslot hresponses
  have hb : t.reg g .b = (s.slot g).b := by rw [State.reg, hslot]; rfl
  have hc : t.reg g .c = (s.slot g).c := by rw [State.reg, hslot]; rfl
  refine ⟨t, _, _, _, _, _, hnext, setSlot_respond_answered s g _ _, ht, hresponses, ?_, fun htook => ?_,
    fun htook => ?_⟩
  · cases peek ((s.slot g).reg .a) <;> simp [bitByte]
  · obtain ⟨v, hv, hvresponses, hvslot⟩ := execAll_lfsrAdvance_lfsrPeek (g := g) (x := .b) (t := t) (hb ▸ hl .b)
    refine ⟨v, _, _, hv, hvresponses, ?_, ?_⟩ <;> rw [nextBit_of_took _ _ ((bitByte_eq_one_iff _).mp htook)]
    · rw [bitByte_xor, freshBit, hb]
      rfl
    · rw [hvslot, hslot, hb, State.respond_slot, State.slot_setSlot_same]
      rfl
  · obtain ⟨v, hv, hvresponses, hvslot⟩ := execAll_lfsrAdvance_lfsrPeek (g := g) (x := .c) (t := t) (hc ▸ hl .c)
    refine ⟨v, _, _, hv, hvresponses, ?_, ?_⟩ <;> rw [nextBit_of_not_took _ _ ((bitByte_eq_zero_iff _).mp htook)]
    · rw [bitByte_xor, freshBit, hc]
      rfl
    · rw [hvslot, hslot, hc, State.respond_slot, State.slot_setSlot_same]
      rfl

end Sys2Proof.Machine
end

section
/-! PROOFS. The CODEC commands (R110 to R121): what Decrypt and Encrypt answer, in one equation each, and on which parts
of the container and of the state it depends. -/

namespace Sys2Proof.Machine

/-! ### Fields of a sequence in two parts (R31) -/

theorem slice_append_of_le {x : List Byte} {hi : Nat} (h : hi ≤ x.length) (lo : Nat) (z : List Byte) :
    slice (x ++ z) lo hi = slice x lo hi := by
  by_cases hlo : lo ≤ hi
  · rw [slice, slice, List.drop_append_of_le_length (hlo.trans h), List.take_append_of_le_length (by simp; omega)]
  · rw [slice, slice, Nat.sub_eq_zero_of_le (by omega), List.take_zero, List.take_zero]

theorem slice_append_of_ge {x : List Byte} {lo : Nat} (h : x.length ≤ lo) (hi : Nat) (z : List Byte) :
    slice (x ++ z) lo hi = slice z (lo - x.length) (hi - x.length) := by
  rw [slice, slice, List.drop_append, List.drop_eq_nil_of_le h, List.nil_append]
  congr 1
  omega

/-- The payload key that Decrypt unwraps from a header: the stored wrapped key under the stored kek (R112). -/
def unwrappedKey (m : SampleMode) (header : List Byte) : List Byte :=
  (crypt m (slice header 92 104) (initGen (slice header 80 92))).1

theorem plaintextOf_append (m : SampleMode) {header : List Byte} (h : header.length = 104) (payload : List Byte) :
    plaintextOf m (header ++ payload) = (crypt m payload (initGen (unwrappedKey m header))).1 := by
  rw [plaintextOf, unwrappedKey, slice_append_of_le (by omega), slice_append_of_le (by omega),
    List.drop_left' (show header.length = hdrLen from h)]

theorem unwrappedKey_of_fields (m : SampleMode) {filler kekField wrapped : List Byte} (hfiller : filler.length = 52)
    (hkek : kekField.length = 12) (hwrapped : wrapped.length = 12) :
    unwrappedKey m (magicBytes ++ filler ++ kekField ++ wrapped) = (crypt m wrapped (initGen kekField)).1 := by
  have hkekSlice : slice (magicBytes ++ filler ++ kekField ++ wrapped) 80 92 = kekField := by
    rw [List.append_assoc _ kekField]
    exact slice_middle (by simp [magicBytes, hfiller]) (by omega)
  have hwrappedSlice : slice (magicBytes ++ filler ++ kekField ++ wrapped) 92 104 = wrapped := by
    have h := slice_middle (x := magicBytes ++ filler ++ kekField) (part := wrapped) (z := []) (lo := 92) (hi := 104)
      (by simp [magicBytes, hfiller, hkek]) (by omega)
    rwa [List.append_nil] at h
  rw [unwrappedKey, hkekSlice, hwrappedSlice]

/-! ### Decrypt and Encrypt in one equation each -/

theorem State.decryptCommand_eq (s : State) (input : List Byte) :
    s.decryptCommand input = (decryptRefusal s.params input).elim
      (s.unloadAll.respond (.ok .decrypt (plaintextOf s.params.sampleMode input))) s.refuse := by
  rw [State.decryptCommand, decryptRefusal, State.decryptContainer_eq]
  split_ifs <;> rfl

theorem State.encryptCommand_eq (s : State) (input : List Byte) :
    s.encryptCommand input = (encryptRefusal s.params input).elim
      (s.afterDraws.respond (.ok .encrypt (s.drawnContainer input))) s.refuse := by
  rw [State.encryptCommand, encryptRefusal, State.encryptPayload_eq, State.containerOf_draws]
  split_ifs <;> rfl

theorem State.afterDraws_respond_allUnloaded (s : State) (r : Response) : AllUnloaded (s.afterDraws.respond r) := by
  intro g x
  simp [State.afterDraws, unloadedRegister]

theorem State.unloadAll_respond_allUnloaded (s : State) (r : Response) : AllUnloaded (s.unloadAll.respond r) := by
  intro g x
  simp [unloadedRegister]

theorem exec_codecDecrypt_append {header payload : List Byte} (s : State) (hlen : header.length = 104)
    (hmagic : magicBytes <+: header) (hm : overMaxLen s.params.maxLen payload.length = false) :
    exec (.codecDecrypt (header ++ payload)) s = .next (s.unloadAll.respond (.ok .decrypt
      (crypt s.params.sampleMode payload (initGen (unwrappedKey s.params.sampleMode header))).1)) := by
  have hpayload : (header ++ payload).length - hdrLen = payload.length := by simp [hlen, hdrLen]
  rw [exec, execCodecDecrypt, decryptCommand_of_container (hmagic.trans (List.prefix_append _ _))
    (by simp [hlen, hdrLen]) (by rw [hpayload, hm]), plaintextOf_append _ hlen]

/-- Settles O37: the fields are read at their offsets, and the filler at none. -/
theorem decryptUnwrapsThenDecrypts : Obligations.DecryptUnwrapsThenDecrypts := by
  unfold Obligations.DecryptUnwrapsThenDecrypts
  intro filler kekField wrapped payload s hfiller hkek hwrapped hm
  have hlen : (magicBytes ++ filler ++ kekField ++ wrapped).length = 104 := by
    simp [magicBytes, hfiller, hkek, hwrapped]
  have hmagic : magicBytes <+: magicBytes ++ filler ++ kekField ++ wrapped := by simp [List.append_assoc]
  refine ⟨_, exec_codecDecrypt_append s hlen hmagic hm, ?_, s.unloadAll_respond_allUnloaded _, rfl, rfl, rfl, rfl⟩
  rw [unwrappedKey_of_fields _ hfiller hkek hwrapped]
  exact s.unloadAll_respond_answered _

/-- Settles O38: the container of the 60 draws, field by field. -/
theorem encryptBuildsTheContainer : Obligations.EncryptBuildsTheContainer := by
  unfold Obligations.EncryptBuildsTheContainer
  intro payload s hm
  exact ⟨_, exec_codecEncrypt_of_fits hm, s.afterDraws_respond_answered _, s.afterDraws_respond_allUnloaded _,
    by simp [State.afterDraws_eq]⟩

/-! ### CODEC.RUN (R110, R111) -/

/-- Settles O36: the two premises are the two answers of the mode test. -/
theorem runChoosesTheModeByThePrefix : Obligations.RunChoosesTheModeByThePrefix := by
  unfold Obligations.RunChoosesTheModeByThePrefix
  intro input s
  have hprefix : (∃ rest, input = magicBytes ++ rest) ↔ magicBytes <+: input :=
    exists_congr fun _ => eq_comm
  rw [hprefix]
  exact ⟨exec_codecRun_of_magic, exec_codecRun_of_not_magic⟩

/-- Settles O39: RUN is Encrypt or Decrypt by the magic, and each completes within MAXLEN. -/
theorem runCompletesInBothModes : Obligations.RunCompletesInBothModes := by
  unfold Obligations.RunCompletesInBothModes
  refine ⟨fun payload s hmagic hm => ?_, fun input s hmagic hlen hm => ?_, fun input s hmagic hlen => ?_⟩
  · rw [exec_codecRun_of_not_magic hmagic]
    exact ⟨_, _, exec_codecEncrypt_of_fits hm, s.afterDraws_respond_answered _, s.drawnContainer_length payload,
      s.afterDraws_respond_allUnloaded _, by simp [State.afterDraws_eq]⟩
  · rw [exec_codecRun_of_magic hmagic, exec, execCodecDecrypt, decryptCommand_of_container hmagic hlen hm]
    exact ⟨_, _, rfl, s.unloadAll_respond_answered _, by rw [plaintextOf, crypt_length, List.length_drop, hdrLen],
      s.unloadAll_respond_allUnloaded _, rfl, rfl, rfl, rfl⟩
  · rw [exec_codecRun_of_magic hmagic, exec, execCodecDecrypt, decryptCommand_of_magic_short hmagic hlen]
    exact ⟨_, rfl, s.refuse_refusedWith _⟩

/-! ### What Decrypt does not check and does not read (R118, R37) -/

/-- The keystream does not depend on the data, so flips of the data are flips of the result (R98). -/
theorem crypt_zipWith_xor (m : SampleMode) (buf flips : List Byte) (k : Generator)
    (h : flips.length = buf.length) :
    (crypt m (List.zipWith (· ^^^ ·) buf flips) k).1 = List.zipWith (· ^^^ ·) (crypt m buf k).1 flips := by
  induction buf generalizing flips k with
  | nil => rfl
  | cons v rest ih =>
    match flips, h with
    | f :: flips, h =>
      have hbyte : (cryptByte m (v ^^^ f) k).1 = (cryptByte m v k).1 ^^^ f := by
        rw [cryptByte_eq, cryptByte_eq, BitVec.xor_assoc, BitVec.xor_comm f, ← BitVec.xor_assoc]
      rw [List.zipWith_cons_cons, crypt_cons, crypt_cons, hbyte, cryptByte_snd_eq_roundState,
        cryptByte_snd_eq_roundState, ih _ _ (Nat.succ.inj h), List.zipWith_cons_cons]

/-- Settles O44: both payloads stand under one header, so one keystream transforms them. -/
theorem tamperedBitsFlipAlone : Obligations.TamperedBitsFlipAlone := by
  unfold Obligations.TamperedBitsFlipAlone
  intro header payload flips s hlen hmagic hflips hm
  have hm' : overMaxLen s.params.maxLen (List.zipWith (· ^^^ ·) payload flips).length = false := by
    simpa [hflips] using hm
  refine ⟨_, _, _, exec_codecDecrypt_append s hlen hmagic hm, s.unloadAll_respond_answered _,
    exec_codecDecrypt_append s hlen hmagic hm', ?_⟩
  rw [crypt_zipWith_xor _ _ _ _ hflips]
  exact s.unloadAll_respond_answered _

/-- Two inputs with the magic, of one length and equal from offset 80 on, are one to Decrypt (R37). -/
theorem decryptCommand_congr {x x' : List Byte} (s : State) (rest : List Byte) (hx : x.length = 80)
    (hx' : x'.length = 80) (hmagic : magicBytes <+: x) (hmagic' : magicBytes <+: x') :
    s.decryptCommand (x ++ rest) = s.decryptCommand (x' ++ rest) := by
  have hmode {y : List Byte} (hy : magicBytes <+: y) : hasMagic (y ++ rest) = true :=
    (hasMagic_iff _).mpr (hy.trans (List.prefix_append _ _))
  have hfields {y : List Byte} (hy : y.length = 80) : plaintextOf s.params.sampleMode (y ++ rest) =
      (crypt s.params.sampleMode (rest.drop 24)
        (initGen (crypt s.params.sampleMode (slice rest 12 24) (initGen (slice rest 0 12))).1)).1 := by
    rw [plaintextOf, slice_append_of_ge (by omega), slice_append_of_ge (by omega), List.drop_append,
      List.drop_eq_nil_of_le (by simp [hy, hdrLen]), hy]
    rfl
  rw [s.decryptCommand_eq, s.decryptCommand_eq, hfields hx, hfields hx', decryptRefusal, decryptRefusal,
    hmode hmagic, hmode hmagic', List.length_append, List.length_append, hx, hx']

/-- Settles O45: what Decrypt reads stands outside the filler. -/
theorem fillerIsNeverRead : Obligations.FillerIsNeverRead := by
  unfold Obligations.FillerIsNeverRead
  intro filler filler' rest s hfiller hfiller'
  exact congrArg Host.Outcome.next (decryptCommand_congr s rest (by simp [magicBytes, hfiller])
    (by simp [magicBytes, hfiller']) (List.prefix_append _ _) (List.prefix_append _ _))

/-! ### Unwrapping by hand (R121) -/

theorem execAll_cons_of_next {i : Instr} {s t : State} (h : exec i s = .next t) (rest : List Instr) :
    execAll (i :: rest) s = execAll rest t := by
  simp only [execAll, h]

/-- KSG.INIT and then KSG.CRYPT on the slot: Crypt on the generator of the key. -/
theorem execAll_ksgInit_ksgCrypt (g : Slot) {key buf : List Byte} (s : State) (hkey : key.length = 12)
    (hm : overMaxLen s.params.maxLen buf.length = false) :
    ∃ t, execAll [.ksgInit g key, .ksgCrypt g buf] s = some t ∧ t.params = s.params ∧
      t.responses = s.responses ++ [.ok .none [], .ok .none (crypt s.params.sampleMode buf (initGen key)).1] := by
  have hinit : exec (.ksgInit g key) s = .next ((s.setSlot g (initGen key)).respond (.ok .none [])) :=
    exec_of_onSlot rfl (onSlot_ksgInit hkey ..)
  have hcrypt := exec_of_onSlot (i := .ksgCrypt g buf) (s := (s.setSlot g (initGen key)).respond (.ok .none [])) rfl
    (onSlot_ksgCrypt (by simpa using hm) (by simp [initGen_loaded]))
  exact ⟨_, (execAll_cons_of_next hinit _).trans (execAll_cons_of_next hcrypt _), by simp, by simp⟩

/-- Settles O47: the first two commands give the unwrapped key, and the last two transform the payload under it. -/
theorem manualUnwrapEqualsDecrypt : Obligations.ManualUnwrapEqualsDecrypt := by
  unfold Obligations.ManualUnwrapEqualsDecrypt
  intro filler kekField wrapped payload s hfiller hkek hwrapped hmkey hm
  obtain ⟨t, ht, htparams, htresponses⟩ := execAll_ksgInit_ksgCrypt .g0 s hkek (hwrapped ▸ hmkey)
  obtain ⟨u, hu, -, huresponses⟩ := execAll_ksgInit_ksgCrypt .g1 (buf := payload)
    (key := (crypt s.params.sampleMode wrapped (initGen kekField)).1) t (by rw [crypt_length, hwrapped])
    (htparams ▸ hm)
  obtain ⟨v, hv, hanswer, -, -⟩ :=
    decryptUnwrapsThenDecrypts filler kekField wrapped payload s hfiller hkek hwrapped hm
  exact ⟨t, u, v, _, _, ht, rfl, htresponses, hu, htparams ▸ huresponses, hv, hanswer⟩

/-! ### The slots and a CODEC command (R119) -/

/-- Two runs of one command that end alike: refused with one error, or with one plaintext, or with one container. -/
def EndAlike (s s' t t' : State) : Prop :=
  (∃ e, t = s.refuse e ∧ t' = s'.refuse e) ∨
  (∃ P, t = s.unloadAll.respond (.ok .decrypt P) ∧ t' = s'.unloadAll.respond (.ok .decrypt P)) ∨
  (∃ C, t = s.afterDraws.respond (.ok .encrypt C) ∧ t' = s'.afterDraws.respond (.ok .encrypt C))

theorem EndAlike.answered {s s' t t' : State} (h : EndAlike s s' t t') : ∃ r, Answered s t r ∧ Answered s' t' r := by
  obtain ⟨e, rfl, rfl⟩ | ⟨P, rfl, rfl⟩ | ⟨C, rfl, rfl⟩ := h
  · exact ⟨_, s.refuse_answered e, s'.refuse_answered e⟩
  · exact ⟨_, s.unloadAll_respond_answered _, s'.unloadAll_respond_answered _⟩
  · exact ⟨_, s.afterDraws_respond_answered _, s'.afterDraws_respond_answered _⟩

section
variable {s s' : State} (hparams : s'.params = s.params)
include hparams

theorem decryptCommand_endAlike (input : List Byte) :
    EndAlike s s' (s.decryptCommand input) (s'.decryptCommand input) := by
  rw [s.decryptCommand_eq, s'.decryptCommand_eq, hparams]
  cases decryptRefusal s.params input with
  | none => exact .inr (.inl ⟨_, rfl, rfl⟩)
  | some e => exact .inl ⟨e, rfl, rfl⟩

variable (hrnd : s'.rnd = s.rnd) (hdrawn : s'.drawn = s.drawn)
include hrnd hdrawn

theorem drawnContainer_congr (payload : List Byte) : s'.drawnContainer payload = s.drawnContainer payload := by
  simp only [State.drawnContainer, State.randomBytes, State.nextRandom, hparams, hrnd, hdrawn]

theorem encryptCommand_endAlike (input : List Byte) :
    EndAlike s s' (s.encryptCommand input) (s'.encryptCommand input) := by
  rw [s.encryptCommand_eq, s'.encryptCommand_eq, hparams, drawnContainer_congr hparams hrnd hdrawn]
  cases encryptRefusal s.params input with
  | none => exact .inr (.inr ⟨_, rfl, rfl⟩)
  | some e => exact .inl ⟨e, rfl, rfl⟩

/-- A CODEC command depends on the parameters and the random source alone (R119). -/
theorem exec_codec_endAlike {i : Instr} (hi : slotOf i = none) :
    ∃ t t', exec i s = .next t ∧ exec i s' = .next t' ∧ EndAlike s s' t t' := by
  match i, hi with
  | .codecDecrypt input, _ => exact ⟨_, _, rfl, rfl, decryptCommand_endAlike hparams input⟩
  | .codecEncrypt input, _ => exact ⟨_, _, rfl, rfl, encryptCommand_endAlike hparams hrnd hdrawn input⟩
  | .codecRun input, _ =>
    by_cases hmagic : magicBytes <+: input
    · rw [exec_codecRun_of_magic hmagic, exec_codecRun_of_magic hmagic]
      exact ⟨_, _, rfl, rfl, decryptCommand_endAlike hparams input⟩
    · rw [exec_codecRun_of_not_magic hmagic, exec_codecRun_of_not_magic hmagic]
      exact ⟨_, _, rfl, rfl, encryptCommand_endAlike hparams hrnd hdrawn input⟩

end

/-- Settles O46: the two runs end alike, and an OK end is one of those that clear the flags. -/
theorem codecIgnoresAndEmptiesTheSlots : Obligations.CodecIgnoresAndEmptiesTheSlots := by
  unfold Obligations.CodecIgnoresAndEmptiesTheSlots
  refine ⟨fun i s s' hi hparams hrnd hdrawn => ?_, fun i s t info out hi ht ha g x => ?_⟩
  · obtain ⟨t, t', ht, ht', halike⟩ := exec_codec_endAlike hparams hrnd hdrawn hi
    obtain ⟨r, hr, hr'⟩ := halike.answered
    exact ⟨t, t', r, ht, ht', hr, hr'⟩
  · obtain ⟨t', -, ht', -, ⟨e, rfl, -⟩ | ⟨P, rfl, -⟩ | ⟨C, rfl, -⟩⟩ :=
      exec_codec_endAlike (s := s) (s' := s) rfl rfl rfl hi <;> cases ht.symm.trans ht'
    · cases ha.unique (s.refuse_answered e)
    · simp
    · simp [State.afterDraws, State.draw_snd]

end Sys2Proof.Machine
end

section
/-! PROOFS. The whole machine: what one step can do (`step_cases`) and what it keeps (O9, O50, O51, O53), what
commands do to the loaded flags (O35), and that a host never learns what an unloaded register holds (O49). -/

namespace Sys2Proof.Machine

/-! ### One step -/

theorem step_of_idle {s : State} (h : s.pending = []) : step s = .next s := by
  rw [step, State.takeInput, h]

theorem step_of_reset {s : State} {rest : List HostInput} (h : s.pending = .reset :: rest) :
    step s = .next (State.assertReset { s with pending := rest }) := by
  rw [step, State.takeInput, h]

theorem step_of_decoded {s : State} {F : List Byte} {rest : List HostInput} {i : Instr}
    (h : s.pending = .frame F :: rest) (hd : decode F = .ok i) : step s = exec i { s with pending := rest } := by
  simp only [step, State.takeInput, h, hd]

theorem step_of_undecoded {s : State} {F : List Byte} {rest : List HostInput} {e : Error}
    (h : s.pending = .frame F :: rest) (hd : decode F = .error e) :
    step s = .next (State.refuse { s with pending := rest } e) := by
  simp only [step, State.takeInput, h, hd]

/-- Everything a step can do: hold, obey a reset, refuse a frame or execute its command (R39, R160, R176). -/
theorem step_cases {s t : State} (ht : step s = .next t) :
    (s.pending = [] ∧ t = s) ∨
    (∃ rest, s.pending = .reset :: rest ∧ t = State.unloadAll { s with pending := rest }) ∨
    (∃ F rest e, s.pending = .frame F :: rest ∧ t = State.refuse { s with pending := rest } e) ∨
    (∃ F rest i, s.pending = .frame F :: rest ∧ exec i { s with pending := rest } = .next t) := by
  cases h : s.pending with
  | nil =>
    cases ht.symm.trans (step_of_idle h)
    exact .inl ⟨rfl, rfl⟩
  | cons input rest =>
    cases input with
    | reset =>
      cases ht.symm.trans (step_of_reset h)
      exact .inr (.inl ⟨rest, rfl, rfl⟩)
    | frame F =>
      cases hd : decode F with
      | error e =>
        cases ht.symm.trans (step_of_undecoded h hd)
        exact .inr (.inr (.inl ⟨F, rest, e, rfl, rfl⟩))
      | ok i => exact .inr (.inr (.inr ⟨F, rest, i, rfl, (step_of_decoded h hd).symm.trans ht⟩))

/-- Settles O4: the decoder's answer chooses the branch of the step. -/
theorem stepExecutesTheDecodedCommand : Obligations.StepExecutesTheDecodedCommand := by
  unfold Obligations.StepExecutesTheDecodedCommand
  exact fun s F rest i h hd => step_of_decoded h hd

/-- Settles O8: the two inputs, none and reset, that execute no command. -/
theorem idleHoldsAndResetUnloads : Obligations.IdleHoldsAndResetUnloads := by
  unfold Obligations.IdleHoldsAndResetUnloads
  refine ⟨fun s h => step_of_idle h, fun s rest h => ⟨_, step_of_reset h, fun g x => ?_, rfl, rfl, rfl, rfl, rfl⟩⟩
  rw [State.assertReset, State.unloadAll_reg, unloadedRegister]

/-- Settles O9: every input has its branch, and every command a next state. -/
theorem everyStepIsSafe : Obligations.EveryStepIsSafe := by
  unfold Obligations.EveryStepIsSafe
  intro s
  cases h : s.pending with
  | nil => exact ⟨s, step_of_idle h⟩
  | cons input rest =>
    cases input with
    | reset => exact ⟨_, step_of_reset h⟩
    | frame F =>
      obtain ⟨t, ht, -⟩ := step_frame_ended h
      exact ⟨t, ht⟩

/-! ### What a command keeps -/

/-- What a command does beside the registers: it gives one response, keeps the parameters and the waiting inputs, and
draws 60 bytes or none (R24, R38, R51). -/
theorem exec_counts {i : Instr} {s t : State} (ht : exec i s = .next t) :
    t.params = s.params ∧ t.pending = s.pending ∧ t.responses.length = s.responses.length + 1 ∧
      (t.drawn = s.drawn ∨ t.drawn = s.drawn + 60) := by
  obtain ⟨e, h⟩ | ⟨g, k, out, -, h⟩ | ⟨P, -, h⟩ | ⟨C, -, h⟩ := exec_shape i s <;> cases ht.symm.trans h
  · simp [State.refuse_eq]
  · simp [State.respondOk_eq]
  · simp
  · simp [State.afterDraws_eq]

/-- Settles O53: a command keeps the parameters, and so do a reset and a refusal. -/
theorem parametersNeverChange : Obligations.ParametersNeverChange := by
  unfold Obligations.ParametersNeverChange
  refine ⟨fun s t ht => ?_, rfl⟩
  obtain ⟨-, rfl⟩ | ⟨rest, -, rfl⟩ | ⟨F, rest, e, -, rfl⟩ | ⟨F, rest, i, -, hexec⟩ := step_cases ht
  · rfl
  · rfl
  · rfl
  · exact (exec_counts hexec).1

/-- Settles O50: a frame taken is a response more, and a command draws 60 bytes or none. -/
theorem stepKeepsTheCounts : Obligations.StepKeepsTheCounts := by
  unfold Obligations.StepKeepsTheCounts WholeDraws AnswersAccountedFor
  intro n s t hdraws hanswers ht
  obtain ⟨-, rfl⟩ | ⟨rest, hp, rfl⟩ | ⟨F, rest, e, hp, rfl⟩ | ⟨F, rest, i, hp, hexec⟩ := step_cases ht
  · exact ⟨hdraws, hanswers⟩
  · rw [hp, frameCount] at hanswers
    exact ⟨hdraws, hanswers⟩
  · rw [hp, frameCount] at hanswers
    refine ⟨hdraws, ?_⟩
    rw [State.refuse_eq, State.respond_responses, State.respond_pending, List.length_append, List.length_singleton]
    exact (Nat.add_right_comm ..).trans hanswers
  · rw [hp, frameCount] at hanswers
    obtain ⟨-, hpending, hresponses, hdrawn⟩ := exec_counts hexec
    rw [hpending, hresponses]
    simp only at hdrawn ⊢
    exact ⟨by omega, by omega⟩

/-! ### What commands do to loaded flags (R12) -/

section
variable {k k' : Generator} {x : RegName}

/-- A reading command leaves a register loaded or as it was, when it does so once its registers are loaded. -/
theorem readIf_loaded_or_kept {loaded : Bool} (out : List Byte)
    (h : loaded = true → (k'.reg x).loaded = true ∨ k'.reg x = k.reg x) :
    ((readIf loaded k k' out).1.reg x).loaded = true ∨ (readIf loaded k k' out).1.reg x = k.reg x := by
  cases loaded with
  | true => exact h rfl
  | false => exact .inr rfl

/-- An output command runs only when all three registers are loaded, and unloads none (R88, R135). -/
theorem readIf_loaded_or_kept_of_output (out : List Byte) (h : (k'.reg x).loaded = (k.reg x).loaded) :
    ((readIf k.loaded k k' out).1.reg x).loaded = true ∨ (readIf k.loaded k k' out).1.reg x = k.reg x :=
  readIf_loaded_or_kept out fun hl => .inl (h.trans (k.loaded_iff.mp hl x))

theorem setReg_loaded_or_kept (k : Generator) (x y : RegName) {r : ClockedRegister} (hr : r.loaded = true) :
    ((k.setReg y r).reg x).loaded = true ∨ (k.setReg y r).reg x = k.reg x := by
  by_cases h : x = y
  · rw [h, Generator.reg_setReg_same]
    exact .inl hr
  · exact .inr (k.reg_setReg_other r h)

/-- A command leaves a register of its slot loaded, or as it was: what an unloaded register holds is neither clocked nor
overwritten. -/
theorem onSlot_loaded_or_kept (i : Instr) (p : Params) (k : Generator) (x : RegName) :
    ((onSlot i p k).1.reg x).loaded = true ∨ (onSlot i p k).1.reg x = k.reg x := by
  cases i with
  | lfsrLoad _ y seed => exact setReg_loaded_or_kept k x y rfl
  | lfsrPeek _ y => exact readIf_loaded_or_kept _ fun _ => .inr rfl
  | lfsrAdvance _ y =>
    exact readIf_loaded_or_kept _ fun hl => setReg_loaded_or_kept k x y ((advance_loaded y _).trans hl)
  | ksgInit _ key =>
    rw [onSlot]
    split
    · exact .inl (by rw [initGen_reg, initReg])
    · exact .inr rfl
  | ksgNextBit _ => exact readIf_loaded_or_kept_of_output _ (nextBit_reg_loaded ..)
  | ksgNextBits _ n =>
    rw [onSlot]
    split
    · exact readIf_loaded_or_kept_of_output _ (nextBits_reg_loaded ..)
    · exact .inr rfl
  | ksgCryptByte _ v => exact readIf_loaded_or_kept_of_output _ (by rw [cryptByte_eq, nextBits_reg_loaded])
  | ksgCrypt _ buf =>
    rw [onSlot]
    split
    · exact .inr rfl
    · exact readIf_loaded_or_kept_of_output _ (crypt_reg_loaded ..)
  | codecRun | codecDecrypt | codecEncrypt => exact .inr rfl

end

/-- A command that addresses a slot leaves every register loaded, or as it was. -/
theorem exec_reg_loaded_or_kept {i : Instr} {g : Slot} {s t : State} (hi : slotOf i = some g)
    (ht : exec i s = .next t) (h : Slot) (x : RegName) : (t.reg h x).loaded = true ∨ t.reg h x = s.reg h x := by
  cases ht.symm.trans (exec_eq_onSlot hi s)
  rw [State.respond_reg]
  by_cases hg : h = g
  · subst hg
    simpa [State.reg] using onSlot_loaded_or_kept i s.params (s.slot h) x
  · exact .inr (by rw [State.reg, State.slot_setSlot_other s _ hg, State.reg])

theorem State.unloadAll_unloadedUnspecified (s : State) : UnloadedUnspecified s.unloadAll := by
  intro g x _
  rw [State.unloadAll_reg, unloadedRegister, State.unloadAll_unloads]

theorem UnloadedUnspecified.respond {s : State} (h : UnloadedUnspecified s) (r : Response) :
    UnloadedUnspecified (s.respond r) := by
  intro g x
  rw [State.respond_reg]
  exact h g x

theorem exec_unloadedUnspecified {i : Instr} {s t : State} (hs : UnloadedUnspecified s) (ht : exec i s = .next t) :
    UnloadedUnspecified t := by
  cases hi : slotOf i with
  | some g =>
    intro h x hx
    obtain ⟨-, -, -, -, -, hunloads⟩ := slotsDoNotShareRegisters.1 i g s t hi ht
    obtain hl | hkept := exec_reg_loaded_or_kept hi ht h x
    · rw [hx] at hl
      cases hl
    · rw [hkept] at hx ⊢
      rw [hunloads, hs h x hx]
  | none =>
    obtain ⟨t', -, ht', -, ⟨e, rfl, -⟩ | ⟨P, rfl, -⟩ | ⟨C, rfl, -⟩⟩ :=
      exec_codec_endAlike (s := s) (s' := s) rfl rfl rfl hi <;> cases ht.symm.trans ht'
    · exact hs.respond _
    · exact s.unloadAll_unloadedUnspecified.respond _
    · exact (State.unloadAll_unloadedUnspecified _).respond _

/-- Settles O51: commands on a slot leave unloaded registers alone, and whatever unloads unloads all six. -/
theorem stepKeepsUnloadedUnspecified : Obligations.StepKeepsUnloadedUnspecified := by
  unfold Obligations.StepKeepsUnloadedUnspecified
  intro s t hs ht
  obtain ⟨-, rfl⟩ | ⟨rest, -, rfl⟩ | ⟨F, rest, e, -, rfl⟩ | ⟨F, rest, i, -, hexec⟩ := step_cases ht
  · exact hs
  · exact State.unloadAll_unloadedUnspecified _
  · exact hs
  · exact exec_unloadedUnspecified (s := { s with pending := rest }) hs hexec

theorem clocks_loaded (x : RegName) (n : Nat) (r : ClockedRegister) : (clocks x n r).loaded = r.loaded := by
  induction n generalizing r with
  | zero => rfl
  | succ n ih => rw [clocks, ih, advance_loaded]

/-- Settles O35: clause by clause, a load, a seeding, a CODEC command that is not refused, one that is, and a clock. -/
theorem loadedFlagsChangeOnlyByRule : Obligations.LoadedFlagsChangeOnlyByRule := by
  unfold Obligations.LoadedFlagsChangeOnlyByRule
  intro i g x s t ht
  refine ⟨?_, ?_, fun hi hok => ?_, fun _ herror => ?_, fun hi hload hinit => ?_⟩
  · rintro ⟨seed, rfl⟩
    cases ht
    rw [State.respondOk_eq, State.respond_reg, State.reg_setReg_same]
  · rintro key rfl hkey
    cases ht.symm.trans (exec_of_onSlot rfl (onSlot_ksgInit hkey ..))
    rw [State.respond_reg, State.reg, State.slot_setSlot_same, initGen_reg, initReg]
  · obtain ⟨info, out, ha⟩ := hok
    obtain ⟨e, rfl⟩ | hall := exec_codec_refused_or_allUnloaded hi ht
    · cases ha.unique (s.refuse_answered e)
    · exact hall g x
  · obtain ⟨e, ha⟩ := herror
    obtain ⟨t', ht', hend⟩ := exec_endsWith i s
    cases ht.symm.trans ht'
    rw [hend.eq_refuse ha, State.refuse_eq, State.respond_reg]
  · obtain hkept | ⟨seed, rfl, -⟩ | ⟨key, rfl, -⟩ | ⟨-, n, hclocks⟩ := exec_registerRule hi ht g x
    · rw [hkept]
    · exact absurd rfl (hload seed)
    · exact absurd rfl (hinit key)
    · rw [hclocks, clocks_loaded]

/-! ### What a host can tell apart (R12) -/

/-- Two generators that differ at most in what their unloaded registers hold. -/
def LookAlike (k k' : Generator) : Prop :=
  ∀ x, (k'.reg x).loaded = (k.reg x).loaded ∧ ((k.reg x).loaded = true → (k'.reg x).value = (k.reg x).value)

/-- Two outcomes of a command on a generator that a host cannot tell apart. -/
def ActAlike (o o' : Generator × Response) : Prop :=
  o'.2 = o.2 ∧ LookAlike o.1 o'.1

theorem LookAlike.refl (k : Generator) : LookAlike k k :=
  fun _ => ⟨rfl, fun _ => rfl⟩

theorem ActAlike.refl (o : Generator × Response) : ActAlike o o :=
  ⟨rfl, .refl o.1⟩

section
variable {k k' : Generator} (h : LookAlike k k')
include h

theorem LookAlike.reg_eq {x : RegName} (hl : (k.reg x).loaded = true) : k'.reg x = k.reg x := by
  obtain ⟨hloaded, hvalue⟩ := h x
  exact congrArg₂ ClockedRegister.mk (hvalue hl) hloaded

theorem LookAlike.loaded_eq : k'.loaded = k.loaded := by
  rw [Bool.eq_iff_iff, Generator.loaded_iff, Generator.loaded_iff]
  exact forall_congr' fun x => by rw [(h x).1]

theorem LookAlike.eq_of_loaded (hl : k.loaded = true) : k' = k :=
  Generator.ext_reg fun x => h.reg_eq (k.loaded_iff.mp hl x)

theorem LookAlike.setReg (x : RegName) (r : ClockedRegister) : LookAlike (k.setReg x r) (k'.setReg x r) := by
  intro y
  by_cases hy : y = x
  · rw [hy, Generator.reg_setReg_same, Generator.reg_setReg_same]
    exact ⟨rfl, fun _ => rfl⟩
  · rw [Generator.reg_setReg_other _ r hy, Generator.reg_setReg_other _ r hy]
    exact h y

/-- A command that reads one register reads the same in both, or is refused in both. -/
theorem LookAlike.readReg (x : RegName) (f : Generator → ClockedRegister → Generator)
    (hf : ∀ r, LookAlike (f k r) (f k' r)) (out : ClockedRegister → List Byte) :
    ActAlike (readIf (k.reg x).loaded k (f k (k.reg x)) (out (k.reg x)))
      (readIf (k'.reg x).loaded k' (f k' (k'.reg x)) (out (k'.reg x))) := by
  cases hl : (k.reg x).loaded with
  | true =>
    rw [h.reg_eq hl, hl]
    exact ⟨rfl, hf (k.reg x)⟩
  | false =>
    rw [(h x).1, hl]
    exact ⟨rfl, h⟩

/-- A command that reads all three registers finds the same generator, or is refused in both. -/
theorem LookAlike.readAll (f : Generator → Generator) (out : Generator → List Byte) :
    ActAlike (readIf k.loaded k (f k) (out k)) (readIf k'.loaded k' (f k') (out k')) := by
  cases hl : k.loaded with
  | true =>
    rw [h.eq_of_loaded hl, hl]
    exact .refl _
  | false =>
    rw [h.loaded_eq, hl]
    exact ⟨rfl, h⟩

theorem LookAlike.onSlot (i : Instr) (p : Params) : ActAlike (onSlot i p k) (onSlot i p k') := by
  cases i with
  | lfsrLoad _ x seed => exact ⟨rfl, h.setReg x _⟩
  | lfsrPeek _ x => exact h.readReg x (fun k _ => k) (fun _ => h) fun r => [bitByte (peek r)]
  | lfsrAdvance _ x =>
    exact h.readReg x (fun k r => k.setReg x (advance x r).2) (fun _ => h.setReg x _) fun r => [bitByte (advance x r).1]
  | ksgInit _ key =>
    rw [Machine.onSlot, Machine.onSlot]
    split
    · exact .refl _
    · exact ⟨rfl, h⟩
  | ksgNextBit _ => exact h.readAll (fun k => (nextBit p.sampleMode k).2) fun k => [bitByte (nextBit p.sampleMode k).1]
  | ksgNextBits _ n =>
    rw [Machine.onSlot, Machine.onSlot]
    split
    · exact h.readAll (fun k => (nextBits p.sampleMode n.toNat k).2) fun k =>
        bytesLe32 (nextBits p.sampleMode n.toNat k).1
    · exact ⟨rfl, h⟩
  | ksgCryptByte _ v =>
    exact h.readAll (fun k => (cryptByte p.sampleMode v k).2) fun k => [(cryptByte p.sampleMode v k).1]
  | ksgCrypt _ buf =>
    rw [Machine.onSlot, Machine.onSlot]
    split
    · exact ⟨rfl, h⟩
    · exact h.readAll (fun k => (crypt p.sampleMode buf k).2) fun k => (crypt p.sampleMode buf k).1
  | codecRun | codecDecrypt | codecEncrypt => exact ⟨rfl, h⟩

end

/-- Slot by slot, two states a host cannot tell apart look alike. -/
theorem Indistinguishable.slot {s s' : State} (h : Indistinguishable s s') (g : Slot) :
    LookAlike (s.slot g) (s'.slot g) := by
  obtain ⟨-, -, -, hslots⟩ := h
  exact hslots g

theorem Indistinguishable.respond {s s' : State} (h : Indistinguishable s s') (r : Response) :
    Indistinguishable (s.respond r) (s'.respond r) := by
  simpa [Indistinguishable] using h

theorem Indistinguishable.setSlot {s s' : State} (h : Indistinguishable s s') (g : Slot) {k k' : Generator}
    (hk : LookAlike k k') : Indistinguishable (s.setSlot g k) (s'.setSlot g k') := by
  obtain ⟨hparams, hrnd, hdrawn, hslots⟩ := h
  refine ⟨by simpa using hparams, by simpa using hrnd, by simpa using hdrawn, fun g' => ?_⟩
  by_cases hg : g' = g
  · subst hg
    simpa [State.reg, LookAlike] using hk
  · simpa [State.reg, State.slot_setSlot_other _ _ hg] using hslots g'

theorem Indistinguishable.unloadAll {s s' : State} (hparams : s'.params = s.params) (hrnd : s'.rnd = s.rnd)
    (hdrawn : s'.drawn = s.drawn) : Indistinguishable s.unloadAll s'.unloadAll :=
  ⟨hparams, hrnd, hdrawn, fun g x => by simp [unloadedRegister]⟩

theorem EndAlike.indistinguishable {s s' t t' : State} (h : Indistinguishable s s') (halike : EndAlike s s' t t') :
    Indistinguishable t t' := by
  obtain ⟨hparams, hrnd, hdrawn, -⟩ := id h
  obtain ⟨e, rfl, rfl⟩ | ⟨P, rfl, rfl⟩ | ⟨C, rfl, rfl⟩ := halike
  · exact h.respond _
  · exact (Indistinguishable.unloadAll hparams hrnd hdrawn).respond _
  · exact (Indistinguishable.unloadAll (by simp [State.draw_snd, hparams]) (by simp [State.draw_snd, hrnd])
      (by simp [State.draw_snd, hdrawn])).respond _

/-- Settles O49: a command on a slot acts alike on generators that look alike, and a CODEC command reads no slot. -/
theorem unloadedValuesAreInvisible : Obligations.UnloadedValuesAreInvisible := by
  unfold Obligations.UnloadedValuesAreInvisible
  intro i s s' h
  obtain ⟨hparams, hrnd, hdrawn, -⟩ := id h
  cases hi : slotOf i with
  | some g =>
    obtain ⟨hresponse, hslot⟩ := (h.slot g).onSlot i s.params
    rw [exec_eq_onSlot hi s, exec_eq_onSlot hi s', hparams, hresponse]
    exact ⟨_, _, _, rfl, rfl, setSlot_respond_answered .., setSlot_respond_answered .., (h.setSlot g hslot).respond _⟩
  | none =>
    obtain ⟨t, t', ht, ht', halike⟩ := exec_codec_endAlike hparams hrnd hdrawn hi
    obtain ⟨r, hr, hr'⟩ := halike.answered
    exact ⟨t, t', r, ht, ht', hr, hr', halike.indistinguishable h⟩

/-! ### After reset (R21) -/

theorem reset_reg (g : Slot) (x : RegName) : State.reset.reg g x = unloadedRegister 0 g x := by
  cases g <;> exact unloadedGenerator_reg ..

/-- Settles O52: nothing is drawn, answered or waiting, and the registers hold the free values of index 0. -/
theorem invariantsHoldAtReset : Obligations.InvariantsHoldAtReset := by
  unfold Obligations.InvariantsHoldAtReset
  exact ⟨rfl, rfl, fun g x _ => by rw [reset_reg, unloadedRegister, State.reset]⟩

/-- Settles O54: no register is loaded after reset, so O18 refuses every reading command. -/
theorem resetLeavesNothingReadable : Obligations.ResetLeavesNothingReadable := by
  unfold Obligations.ResetLeavesNothingReadable
  have hunloaded : AllUnloaded State.reset := fun g x => by rw [reset_reg, unloadedRegister]
  obtain ⟨hregs, hslots, -⟩ := unloadedReadsAreRefused
  have hslot (g : Slot) := hslots g .a State.reset (hunloaded g .a)
  exact ⟨hunloaded, rfl, rfl, fun g x => (hregs g x _ (hunloaded g x)).1, fun g x => (hregs g x _ (hunloaded g x)).2,
    fun g => (hslot g).1, fun g => (hslot g).2.1, fun g => (hslot g).2.2.1, fun g buf => (hslot g).2.2.2 buf rfl⟩

end Sys2Proof.Machine
end
